-- ==== Sys2Proof/Word.lean ====
section
/-! DEFINITION. The word types of the core and the register index (spec/00_scope.md R6, R8, R10).

Every one of these is a thing the spec adds, shifts, slices or stores as bits, except `Reg`, which is an index. -/

namespace Sys2Proof

/-- A byte: a general register, a timer, a memory byte, the immediate `nn` (R6, R10). -/
abbrev Byte := BitVec 8

/-- A 16-bit word: an instruction word, PC, I, a stack slot (R6). -/
abbrev Word := BitVec 16

/-- A 4-bit field of an instruction word (R10, R12). -/
abbrev Nibble := BitVec 4

/-- The 12-bit address field `nnn` (R10). -/
abbrev Addr := BitVec 12

/-- The index of a general register, 0..15 (R16), also of a keypad line (R25). -/
abbrev Reg := Fin 16

/-- The index of VF, the register that doubles as the flag (R17). -/
def regF : Reg := 15

/-- The four bits by which an instruction word names a register. -/
def regBits (x : Reg) : Nibble := BitVec.ofFin x

/-- The register a four-bit field names. -/
def regOfBits (b : Nibble) : Reg := b.toFin

end Sys2Proof
end

