-- ==== Sys2Proof/Syntax.lean ====
section
/-! DEFINITION. The instructions: one constructor for each row of spec/opcode_table.json (spec/30_encoding.md R54, R55,
R69), carrying exactly the fields its format uses. The word of an instruction is given after its name.

A word that is none of these (R63) has no constructor: the decoder answers `Decoded.unrecognized` for it. -/

namespace Sys2Proof

/-- The 35 opcodes, in the order of R69. -/
inductive Instr where
  /-- `0nnn`, nnn not 0E0 and not 0EE: SYS nnn (R58, R82) -/
  | sys (nnn : Addr)
  /-- `00E0`: CLS (R117) -/
  | cls
  /-- `00EE`: RET (R83) -/
  | ret
  /-- `1nnn`: JP nnn (R84) -/
  | jp (nnn : Addr)
  /-- `2nnn`: CALL nnn (R85) -/
  | call (nnn : Addr)
  /-- `3xnn`: SE Vx, nn (R86) -/
  | seImm (x : Reg) (nn : Byte)
  /-- `4xnn`: SNE Vx, nn (R87) -/
  | sneImm (x : Reg) (nn : Byte)
  /-- `5xy0`: SE Vx, Vy (R88) -/
  | seReg (x y : Reg)
  /-- `6xnn`: LD Vx, nn (R100) -/
  | ldImm (x : Reg) (nn : Byte)
  /-- `7xnn`: ADD Vx, nn (R101) -/
  | addImm (x : Reg) (nn : Byte)
  /-- `8xy0`: LD Vx, Vy (R102) -/
  | ldReg (x y : Reg)
  /-- `8xy1`: OR Vx, Vy (R103) -/
  | orReg (x y : Reg)
  /-- `8xy2`: AND Vx, Vy (R104) -/
  | andReg (x y : Reg)
  /-- `8xy3`: XOR Vx, Vy (R105) -/
  | xorReg (x y : Reg)
  /-- `8xy4`: ADD Vx, Vy (R106) -/
  | addReg (x y : Reg)
  /-- `8xy5`: SUB Vx, Vy (R107) -/
  | subReg (x y : Reg)
  /-- `8xy6`: SHR Vx (R108); y is decoded and ignored -/
  | shr (x y : Reg)
  /-- `8xy7`: SUBN Vx, Vy (R109) -/
  | subnReg (x y : Reg)
  /-- `8xyE`: SHL Vx (R110); y is decoded and ignored -/
  | shl (x y : Reg)
  /-- `9xy0`: SNE Vx, Vy (R89) -/
  | sneReg (x y : Reg)
  /-- `Annn`: LD I, nnn (R129) -/
  | ldI (nnn : Addr)
  /-- `Bnnn`: JP V0, nnn (R90) -/
  | jpV0 (nnn : Addr)
  /-- `Cxnn`: RND Vx, nn (R111) -/
  | rnd (x : Reg) (nn : Byte)
  /-- `Dxyn`: DRW Vx, Vy, n (R118) -/
  | drw (x y : Reg) (n : Nibble)
  /-- `Ex9E`: SKP Vx (R91) -/
  | skp (x : Reg)
  /-- `ExA1`: SKNP Vx (R92) -/
  | sknp (x : Reg)
  /-- `Fx07`: LD Vx, DT (R130) -/
  | ldVxDt (x : Reg)
  /-- `Fx0A`: LD Vx, K (R131) -/
  | ldVxK (x : Reg)
  /-- `Fx15`: LD DT, Vx (R132) -/
  | ldDtVx (x : Reg)
  /-- `Fx18`: LD ST, Vx (R133) -/
  | ldStVx (x : Reg)
  /-- `Fx1E`: ADD I, Vx (R134) -/
  | addIVx (x : Reg)
  /-- `Fx29`: LD F, Vx (R135) -/
  | ldFVx (x : Reg)
  /-- `Fx33`: LD B, Vx (R136) -/
  | ldBVx (x : Reg)
  /-- `Fx55`: LD [I], Vx (R137) -/
  | ldMemVx (x : Reg)
  /-- `Fx65`: LD Vx, [I] (R138) -/
  | ldVxMem (x : Reg)
  deriving DecidableEq, Repr

end Sys2Proof
end

