-- ==== Sys2Proof/Decode.lean ====
section
/-! DEFINITION. The decoder unit of spec/30_encoding.md (R54 to R64), total on all 65536 words, and after it the encoder,
written from the encodings of the same file (R65) and of spec/opcode_table.json. -/

namespace Sys2Proof

/-! ### The fields of a word (R10, R54, R61): output whatever the opcode is (R56) -/

/-- `w[15:12]`, the high nibble, which selects the family. -/
def fieldFamily (w : Word) : Nibble := w.extractLsb' 12 4

/-- `x = w[11:8]`. -/
def fieldX (w : Word) : Reg := regOfBits (w.extractLsb' 8 4)

/-- `y = w[7:4]`. -/
def fieldY (w : Word) : Reg := regOfBits (w.extractLsb' 4 4)

/-- `n = w[3:0]`. -/
def fieldN (w : Word) : Nibble := w.extractLsb' 0 4

/-- `nn = w[7:0]`. -/
def fieldNn (w : Word) : Byte := w.extractLsb' 0 8

/-- `nnn = w[11:0]`. -/
def fieldNnn (w : Word) : Addr := w.extractLsb' 0 12

/-- What the decoder answers: one of the 35 opcodes with its operands, or UNRECOGNIZED carrying the raw word (R56). -/
inductive Decoded where
  | op (i : Instr)
  | unrecognized (w : Word)
  deriving DecidableEq, Repr

/-! ### Decode, the case statement of R57 -/

/-- Family 0: CLS, RET, and SYS for every other word (R58). -/
def decodeFamily0 (w : Word) : Decoded :=
  if w = 0x00E0#16 then .op .cls
  else if w = 0x00EE#16 then .op .ret
  else .op (.sys (fieldNnn w))

/-- Family 8: the register arithmetic, selected by the low nibble (R57, R59). -/
def decodeFamily8 (w : Word) : Decoded :=
  if fieldN w = 0x0#4 then .op (.ldReg (fieldX w) (fieldY w))
  else if fieldN w = 0x1#4 then .op (.orReg (fieldX w) (fieldY w))
  else if fieldN w = 0x2#4 then .op (.andReg (fieldX w) (fieldY w))
  else if fieldN w = 0x3#4 then .op (.xorReg (fieldX w) (fieldY w))
  else if fieldN w = 0x4#4 then .op (.addReg (fieldX w) (fieldY w))
  else if fieldN w = 0x5#4 then .op (.subReg (fieldX w) (fieldY w))
  else if fieldN w = 0x6#4 then .op (.shr (fieldX w) (fieldY w))
  else if fieldN w = 0x7#4 then .op (.subnReg (fieldX w) (fieldY w))
  else if fieldN w = 0xE#4 then .op (.shl (fieldX w) (fieldY w))
  else .unrecognized w

/-- Family E: the key skips, selected by the low byte (R57, R59). -/
def decodeFamilyE (w : Word) : Decoded :=
  if fieldNn w = 0x9E#8 then .op (.skp (fieldX w))
  else if fieldNn w = 0xA1#8 then .op (.sknp (fieldX w))
  else .unrecognized w

/-- Family F: timers, key wait, index and memory transfer, selected by the low byte (R57, R59). -/
def decodeFamilyF (w : Word) : Decoded :=
  if fieldNn w = 0x07#8 then .op (.ldVxDt (fieldX w))
  else if fieldNn w = 0x0A#8 then .op (.ldVxK (fieldX w))
  else if fieldNn w = 0x15#8 then .op (.ldDtVx (fieldX w))
  else if fieldNn w = 0x18#8 then .op (.ldStVx (fieldX w))
  else if fieldNn w = 0x1E#8 then .op (.addIVx (fieldX w))
  else if fieldNn w = 0x29#8 then .op (.ldFVx (fieldX w))
  else if fieldNn w = 0x33#8 then .op (.ldBVx (fieldX w))
  else if fieldNn w = 0x55#8 then .op (.ldMemVx (fieldX w))
  else if fieldNn w = 0x65#8 then .op (.ldVxMem (fieldX w))
  else .unrecognized w

/-- The decoder unit (R56, R57): family nibble first, then the sub-field where the family needs one. -/
def decode (w : Word) : Decoded :=
  match (fieldFamily w).toNat with
  | 0x0 => decodeFamily0 w
  | 0x1 => .op (.jp (fieldNnn w))
  | 0x2 => .op (.call (fieldNnn w))
  | 0x3 => .op (.seImm (fieldX w) (fieldNn w))
  | 0x4 => .op (.sneImm (fieldX w) (fieldNn w))
  | 0x5 => if fieldN w = 0x0#4 then .op (.seReg (fieldX w) (fieldY w)) else .unrecognized w
  | 0x6 => .op (.ldImm (fieldX w) (fieldNn w))
  | 0x7 => .op (.addImm (fieldX w) (fieldNn w))
  | 0x8 => decodeFamily8 w
  | 0x9 => if fieldN w = 0x0#4 then .op (.sneReg (fieldX w) (fieldY w)) else .unrecognized w
  | 0xA => .op (.ldI (fieldNnn w))
  | 0xB => .op (.jpV0 (fieldNnn w))
  | 0xC => .op (.rnd (fieldX w) (fieldNn w))
  | 0xD => .op (.drw (fieldX w) (fieldY w) (fieldN w))
  | 0xE => decodeFamilyE w
  | _ => decodeFamilyF w

/-- The instruction word of two consecutive bytes, big-endian: the byte at the lower address is `w[15:8]` (R42, R74). -/
def wordOfBytes (hi lo : Byte) : Word := hi ++ lo

/-- Decoding as the hardware meets it: the two bytes in address order. -/
def decodeBytes (hi lo : Byte) : Decoded := decode (wordOfBytes hi lo)

/-! ### Encode, from the encodings of R65 and of spec/opcode_table.json -/

/-- A word of the formats `none` and `nnn`: the family and 12 more bits (R55). -/
def wordNnn (family : Nibble) (nnn : Addr) : Word := family ++ nnn

/-- A word of the formats `xnn` and `x`: the family, x and a byte (R55). -/
def wordXnn (family : Nibble) (x : Reg) (nn : Byte) : Word := family ++ (regBits x ++ nn)

/-- A word of the formats `xy` and `xyn`: the family, x, y and a nibble (R55). -/
def wordXyn (family : Nibble) (x y : Reg) (n : Nibble) : Word := family ++ (regBits x ++ (regBits y ++ n))

/-- The one word of an instruction (R54). -/
def encode : Instr → Word
  | .sys nnn => wordNnn 0x0 nnn
  | .cls => 0x00E0
  | .ret => 0x00EE
  | .jp nnn => wordNnn 0x1 nnn
  | .call nnn => wordNnn 0x2 nnn
  | .seImm x nn => wordXnn 0x3 x nn
  | .sneImm x nn => wordXnn 0x4 x nn
  | .seReg x y => wordXyn 0x5 x y 0x0
  | .ldImm x nn => wordXnn 0x6 x nn
  | .addImm x nn => wordXnn 0x7 x nn
  | .ldReg x y => wordXyn 0x8 x y 0x0
  | .orReg x y => wordXyn 0x8 x y 0x1
  | .andReg x y => wordXyn 0x8 x y 0x2
  | .xorReg x y => wordXyn 0x8 x y 0x3
  | .addReg x y => wordXyn 0x8 x y 0x4
  | .subReg x y => wordXyn 0x8 x y 0x5
  | .shr x y => wordXyn 0x8 x y 0x6
  | .subnReg x y => wordXyn 0x8 x y 0x7
  | .shl x y => wordXyn 0x8 x y 0xE
  | .sneReg x y => wordXyn 0x9 x y 0x0
  | .ldI nnn => wordNnn 0xA nnn
  | .jpV0 nnn => wordNnn 0xB nnn
  | .rnd x nn => wordXnn 0xC x nn
  | .drw x y n => wordXyn 0xD x y n
  | .skp x => wordXnn 0xE x 0x9E
  | .sknp x => wordXnn 0xE x 0xA1
  | .ldVxDt x => wordXnn 0xF x 0x07
  | .ldVxK x => wordXnn 0xF x 0x0A
  | .ldDtVx x => wordXnn 0xF x 0x15
  | .ldStVx x => wordXnn 0xF x 0x18
  | .addIVx x => wordXnn 0xF x 0x1E
  | .ldFVx x => wordXnn 0xF x 0x29
  | .ldBVx x => wordXnn 0xF x 0x33
  | .ldMemVx x => wordXnn 0xF x 0x55
  | .ldVxMem x => wordXnn 0xF x 0x65

/-- The byte an instruction word stores at the lower address, `w[15:8]` (R42). -/
def wordHi (w : Word) : Byte := w.extractLsb' 8 8

/-- The byte an instruction word stores at the higher address, `w[7:0]` (R42). -/
def wordLo (w : Word) : Byte := w.extractLsb' 0 8

/-! ### The host's probe -/

/-- The low `nbits` bits of `w` as one instruction word: every bit above `nbits` is 0. -/
def tableWord (nbits w : Nat) : Word := BitVec.ofNat 16 (w % 2 ^ nbits)

/-- The instruction the decoder reads from the word spec/opcode_table.json numbers as `w` (bit 0 its least significant
bit), laid out as the two bytes the hardware stores; `none` where the decoder answers UNRECOGNIZED. -/
def decodeTableWord (nbits w : Nat) : Option Instr :=
  match decodeBytes (wordHi (tableWord nbits w)) (wordLo (tableWord nbits w)) with
  | .op i => some i
  | .unrecognized _ => none

end Sys2Proof
end

