-- ==== Sys2Proof/Config.lean ====
section
/-! DEFINITION. What one machine fixes (the named parameters of spec/00_scope.md R7) and the one free value of the spec,
the random byte of Cxnn (spec/42_alu.md R112).

The TYPES of the parameters stand here; their default VALUES stand in `Machine/Parameters.lean`.
A machine's parameters are held in its state (`State.params`), which no instruction and no host operation changes
(assumption log 1): a statement about every state is then a statement about every value of every parameter. -/

namespace Sys2Proof

/-- `KEYWAIT_MODE` (R7, R72, R73; spec/92_eei_decisions.md D15): what a Step does while the key wait is pending. -/
inductive KeywaitMode where
  /-- a Step during the wait changes nothing -/
  | stall
  /-- a Step during the wait re-examines the keypad latch -/
  | resume
  deriving DecidableEq, Repr

/-- `XF_POLICY` (R7, R99; D6): which value VF keeps when VF is also the destination of a flag-writing instruction. -/
inductive XfPolicy where
  /-- VF keeps the flag -/
  | flagWins
  /-- VF keeps the result -/
  | resultWins
  deriving DecidableEq, Repr

/-- `FONT_WRITE` (R7, R48, R139; D19): what a store into 0x000..0x04F does. -/
inductive FontWrite where
  /-- the store is performed like any other -/
  | write
  /-- the storing instruction raises FONT_WRITE before it writes any byte -/
  | fault
  deriving DecidableEq, Repr

/-- The named parameters the core reads (R7). `CYCLES_PER_FRAME` is not here: it is a property of the host's loop and
no rule of the core reads it (R7, assumption log 2). -/
structure Params where
  keywaitMode : KeywaitMode
  xfPolicy : XfPolicy
  fontWrite : FontWrite
  /-- the 80 bytes of the font, glyph `d` at offset `5 * d` (R7; D18) -/
  font : Vector Byte 80
  deriving DecidableEq, Repr

/-- The free value of the model: the byte the random input port supplies to the `k`-th RND executed (R112: any byte,
independent of the state, under no law). It has no body, so no proof can see a value of it (assumption log 3). -/
opaque Config.rnd : Nat → Byte

end Sys2Proof
end

