-- ==== Sys2Proof/Machine/Parameters.lean ====
section
/-! DEFINITION. The default values of the parameters (spec/00_scope.md R7) and the contents memory has when nothing has
been written to it (spec/10_state.md R35, spec/70_reset_and_hazards.md R163). -/

namespace Sys2Proof

/-- The default `FONT`: the conventional CHIP-8 font, the table of R7, glyph by glyph in address order. The source gives
the size and the place of the font and not its bytes (D18, assumption log 4). -/
def defaultFont : Vector Byte 80 :=
  #v[0xF0, 0x90, 0x90, 0x90, 0xF0,
     0x20, 0x60, 0x20, 0x20, 0x70,
     0xF0, 0x10, 0xF0, 0x80, 0xF0,
     0xF0, 0x10, 0xF0, 0x10, 0xF0,
     0x90, 0x90, 0xF0, 0x10, 0x10,
     0xF0, 0x80, 0xF0, 0x10, 0xF0,
     0xF0, 0x80, 0xF0, 0x90, 0xF0,
     0xF0, 0x10, 0x20, 0x40, 0x40,
     0xF0, 0x90, 0xF0, 0x90, 0xF0,
     0xF0, 0x90, 0xF0, 0x10, 0xF0,
     0xF0, 0x90, 0xF0, 0x90, 0x90,
     0xE0, 0x90, 0xE0, 0x90, 0xE0,
     0xF0, 0x80, 0x80, 0x80, 0xF0,
     0xE0, 0x90, 0x90, 0x90, 0xE0,
     0xF0, 0x80, 0xF0, 0x80, 0xF0,
     0xF0, 0x80, 0xF0, 0x80, 0x80]

/-- The defaults of R7. -/
def defaultParams : Params :=
  { keywaitMode := .resume, xfPolicy := .flagWins, fontWrite := .write, font := defaultFont }

/-- The size of MEM in bytes (R6, R38). -/
def memSize : Nat := 4096

/-- The size of the font region, addresses 0x000..0x04F (R47). -/
def fontSize : Nat := 80

/-- The program base (R6, R47). -/
def progBase : Nat := 0x200

/-- The program capacity in bytes (R6). -/
def progCapacity : Nat := 0xE00

/-- What address `a` holds while nothing has been written there: the font at 0x000..0x04F and 0 elsewhere (R35, R163). -/
def initByte (p : Params) (a : Nat) : Byte :=
  if h : a < 80 then p.font[a] else 0

end Sys2Proof
end

