-- ==== Sys2Proof/Machine/Memory.lean ====
section
/-! DEFINITION. Memory as a list of the cells that differ from the initial contents, in one canonical form: addresses
strictly rising, all below 4096, no cell equal to what an unlisted address reads as (spec/20_memory.md R38, R41).

`dflt` below is always `initByte` of the machine's parameters: what an unlisted address reads as. -/

namespace Sys2Proof

abbrev Memory := List Host.Cell

/-- The byte at address `a`. -/
def Memory.read (dflt : Nat → Byte) : Memory → Nat → Byte
  | [], a => dflt a
  | (b, v) :: rest, a => if a = b then v else Memory.read dflt rest a

/-- Put a cell before `rest`, unless it says what an unlisted address says anyway. -/
def Memory.consCell (dflt : Nat → Byte) (a : Nat) (v : Byte) (rest : Memory) : Memory :=
  if v = dflt a then rest else (a, v) :: rest

/-- Store `v` at address `a`, keeping the canonical form. -/
def Memory.write (dflt : Nat → Byte) : Memory → Nat → Byte → Memory
  | [], a, v => Memory.consCell dflt a v []
  | (b, u) :: rest, a, v =>
    if a < b then Memory.consCell dflt a v ((b, u) :: rest)
    else if a = b then Memory.consCell dflt a v rest
    else (b, u) :: Memory.write dflt rest a v

/-- The canonical form. -/
abbrev Memory.wf (dflt : Nat → Byte) (m : Memory) : Prop :=
  m.Pairwise (fun c d => c.1 < d.1) ∧ ∀ c ∈ m, c.1 < 4096 ∧ c.2 ≠ dflt c.1

/-- Only the cells from address `base` up (what Reset re-copies, spec/70_reset_and_hazards.md R165). -/
def Memory.from (base : Nat) (m : Memory) : Memory := m.filter (fun c => base ≤ c.1)

end Sys2Proof
end

