-- ==== Sys2Proof/Machine/State.lean ====
section
/-! DEFINITION. The state of the core (spec/10_state.md R15), the reasons it could stop, and the state after Init with
the default parameters.

The fields are the spec's, in the order of R15; the two after them, `params` and `draws`, are the MODEL's own
(assumption log 1 and 3). State is plain data. -/

namespace Sys2Proof.Machine

open Sys2Proof

/-- The display: 32 rows of 64 pixels, true is lit; pixel (x, y) is `disp[y][x]` (R26, assumption log 5). -/
abbrev Display := Vector (Vector Bool 64) 32

/-- The ghost grid, with the display's indexing (R30). -/
abbrev Ghost := Vector (Vector Byte 64) 32

/-- The codes of the FAULT register (R28, R142). -/
inductive FaultCode where
  | none
  | stackOverflow
  | stackUnderflow
  | keyIndex
  | fontWrite
  deriving DecidableEq, Repr

/-- A checkpoint: the machine state without the checkpoint slot and without FAULT (R29, R157). -/
structure Snapshot where
  mem : Memory
  v : Vector Byte 16
  i : Word
  pc : Word
  stack : Vector Word 16
  sp : Fin 17
  dt : Byte
  st : Byte
  key : Vector Bool 16
  disp : Display
  ghost : Ghost
  paused : Bool
  wait : Option Reg
  deriving DecidableEq, Repr

/-- The whole state. -/
structure State where
  /-- MEM, 4096 bytes (R33, R38): the cells that differ from the initial contents -/
  mem : Memory
  /-- V0..VF (R16, R17) -/
  v : Vector Byte 16
  /-- I, the index register (R21) -/
  i : Word
  /-- PC (R19, R20) -/
  pc : Word
  /-- STACK, 16 slots (R22, R23) -/
  stack : Vector Word 16
  /-- SP, 0..16: the next free slot (R22) -/
  sp : Fin 17
  /-- DT, the delay timer (R24) -/
  dt : Byte
  /-- ST, the sound timer (R24) -/
  st : Byte
  /-- KEY, the keypad latch (R25) -/
  key : Vector Bool 16
  /-- DISP (R26) -/
  disp : Display
  /-- GHOST, presentation only (R30) -/
  ghost : Ghost
  /-- PAUSED, the driver's flag (R31) -/
  paused : Bool
  /-- WAIT, the key-wait register (R27) -/
  wait : Option Reg
  /-- CKPT, the checkpoint slot (R29) -/
  ckpt : Option Snapshot
  /-- FAULT (R28) -/
  fault : FaultCode
  /-- the MODEL's own: the parameters of this machine (R7), never written -/
  params : Params
  /-- the MODEL's own: how many random bytes have been drawn, the argument of the free value `Config.rnd` -/
  draws : Nat
  deriving DecidableEq, Repr

/-- Reasons the machine stops with a fault. There is none: the four faults of the spec are states the machine goes to
(FAULT set, R141), every encoding executes (R62), every fetch succeeds (R74), every address exists (R39). Nothing raises
one: safe. -/
inductive Fault where
  deriving DecidableEq, Repr

/-- Reasons the model refuses an instruction. -/
inductive Refusal where
  /-- raised by an arm of `exec` whose instruction has no meaning yet (none is left): safe, the run stops -/
  | notModelled (mnemonic : String)
  deriving DecidableEq, Repr

/-- Init (spec/70_reset_and_hazards.md R163, spec/10_state.md R35) on a machine with the parameters `p`: memory lists
nothing, so it reads as the font at 0x000..0x04F and 0 elsewhere. The spec gives every field's value; the start of
`draws` is the model's (assumption log 3). -/
def State.init (p : Params) : State :=
  { mem := []
    v := Vector.replicate 16 0
    i := 0
    pc := 0x200
    stack := Vector.replicate 16 0
    sp := 0
    dt := 0
    st := 0
    key := Vector.replicate 16 false
    disp := Vector.replicate 32 (Vector.replicate 64 false)
    ghost := Vector.replicate 32 (Vector.replicate 64 0)
    paused := false
    wait := none
    ckpt := none
    fault := .none
    params := p
    draws := 0 }

/-- The machine right after Init with the default parameters of R7. -/
def State.reset : State := State.init defaultParams

end Sys2Proof.Machine
end

