-- ==== Sys2Proof/Machine/Ops.lean ====
section
/-! DEFINITION. The named operations over the state: one setter per register, memory, the program counter, fetch, the
keypad, raising a fault. Every meaning is written over these. -/

namespace Sys2Proof.Machine

open Sys2Proof

/-- What every meaning answers. -/
abbrev Result := Host.Outcome State Fault Refusal

/-! ### Registers -/

/-- `V[x] <- b` (R9, R16): no general register is hard-wired. -/
def State.setV (s : State) (x : Reg) (b : Byte) : State := { s with v := s.v.set x b }

def State.setRegs (s : State) (v : Vector Byte 16) : State := { s with v := v }

def State.setI (s : State) (a : Word) : State := { s with i := a }

def State.setPc (s : State) (a : Word) : State := { s with pc := a }

def State.setSlot (s : State) (k : Fin 16) (a : Word) : State := { s with stack := s.stack.set k a }

def State.setSp (s : State) (k : Fin 17) : State := { s with sp := k }

def State.setDt (s : State) (b : Byte) : State := { s with dt := b }

def State.setSt (s : State) (b : Byte) : State := { s with st := b }

def State.setKey (s : State) (k : Vector Bool 16) : State := { s with key := k }

def State.setDisp (s : State) (d : Display) : State := { s with disp := d }

def State.setGhost (s : State) (g : Ghost) : State := { s with ghost := g }

def State.setPaused (s : State) (b : Bool) : State := { s with paused := b }

def State.setWait (s : State) (w : Option Reg) : State := { s with wait := w }

def State.setCkpt (s : State) (c : Option Snapshot) : State := { s with ckpt := c }

def State.setFault (s : State) (c : FaultCode) : State := { s with fault := c }

def State.setMem (s : State) (m : Memory) : State := { s with mem := m }

def State.setDraws (s : State) (k : Nat) : State := { s with draws := k }

/-- `zext_8` of a flag bit (R99). -/
def flagByte (f : Bool) : Byte := if f then 1 else 0

/-! ### The program counter (R20, R76) -/

/-- "Advance": PC + 2 modulo 2^16. -/
def State.advance (s : State) : State := s.setPc (s.pc + 2)

/-- A skip: PC + 4 when its condition holds, PC + 2 when it does not. -/
def State.skipIf (s : State) (c : Bool) : State := s.setPc (if c then s.pc + 4 else s.pc + 2)

/-! ### Memory (R39, R41) -/

/-- Every address the core forms is reduced modulo 4096 before it reaches memory. -/
def memIndex (a : Word) : Nat := a.toNat % 4096

/-- `MemRead(a, 1)`. -/
def State.memRead (s : State) (a : Word) : Byte := s.mem.read (initByte s.params) (memIndex a)

/-- `MemWrite(a, 1, b)`. -/
def State.memWrite (s : State) (a : Word) (b : Byte) : State :=
  s.setMem (s.mem.write (initByte s.params) (memIndex a) b)

/-! ### Fetch (R42, R74) -/

/-- The word at PC: two consecutive bytes, big-endian, each address reduced on its own. -/
def State.fetchWord (s : State) : Word := wordOfBytes (s.memRead s.pc) (s.memRead (s.pc + 1))

/-- Fetch and decode, as R70 orders them. -/
def State.fetchDecode (s : State) : Decoded := decode s.fetchWord

/-! ### The keypad (R25, R73, R131) -/

/-- The least pressed key, scanning in increasing index order. -/
def leastKey (k : Vector Bool 16) : Option Reg := (List.finRange 16).find? (fun j => k[j])

/-! ### Faults (R141): the one way an instruction takes an exception

`raise Fault(code)` sets FAULT and ends the instruction with no other effect: PC still holds the instruction's address.
Nothing is saved and control goes nowhere (R150); no instruction returns from a fault. The ways out are the host's Init
and Reset (`hostInit` and `hostReset` of HostOps.lean). -/

def raiseFault (code : FaultCode) (s : State) : Result := .next (s.setFault code)

/-- The value of a fault code in the 3-bit FAULT register (R28, R142). -/
def FaultCode.value : FaultCode → BitVec 3
  | .none => 0
  | .stackOverflow => 1
  | .stackUnderflow => 2
  | .keyIndex => 3
  | .fontWrite => 4

/-! ### What Step does without executing an instruction of the table -/

/-- UNRECOGNIZED (R62, R77): a 2-byte no-op. -/
def execUnrecognized (s : State) : Result := .next s.advance

/-- A Step that finds FAULT set (R71): nothing changes. -/
def faultedStep (s : State) : Result := .next s

/-- The key wait ends (R73): the key goes to the waiting register, WAIT is emptied, PC advances past the blocked Fx0A. -/
def State.resolveWait (s : State) (x k : Reg) : State := ((s.setV x (BitVec.ofNat 8 k.val)).setWait none).advance

/-- A Step that finds WAIT = x (R72, R73): no fetch and no decode. -/
def keyWaitStep (x : Reg) (s : State) : Result :=
  match s.params.keywaitMode with
  | .stall => .next s
  | .resume =>
    match leastKey s.key with
    | none => .next s
    | some k => .next (s.resolveWait x k)

end Sys2Proof.Machine
end

