-- ==== Sys2Proof/Machine/Operands.lean ====
section
/-! DEFINITION. The operand forms: registers and immediates (spec/30_encoding.md R61) and the one data addressing mode,
I plus a small constant (spec/44_index_memory_timers.md R140), with the block transfers over it and the font-write check. -/

namespace Sys2Proof.Machine

open Sys2Proof

/-- Register operand: `V[x]`. -/
def State.getV (s : State) (x : Reg) : Byte := s.v[x]

/-- `zext_16` of the address field `nnn` (R61). -/
def zextAddr (nnn : Addr) : Word := nnn.setWidth 16

/-- `zext_16` of a byte. -/
def zextByte (b : Byte) : Word := b.setWidth 16

/-- The address `(base + k) mod 2^16` of the `k`-th byte of a transfer (R39, R140), before its reduction to 12 bits. -/
def byteAddr (base : Word) (k : Nat) : Word := base + BitVec.ofNat 16 k

/-- Read `count` bytes at `base`, `base + 1`, ... -/
def State.readBytes (s : State) (base : Word) (count : Nat) : List Byte :=
  (List.range count).map (fun k => s.memRead (byteAddr base k))

/-- Write the bytes at `base + k`, `base + k + 1`, ... in that order. -/
def State.writeBytesFrom (base : Word) : Nat → List Byte → State → State
  | _, [], s => s
  | k, b :: bs, s => State.writeBytesFrom base (k + 1) bs (s.memWrite (byteAddr base k) b)

/-- Write the bytes at `base`, `base + 1`, ... -/
def State.writeBytes (s : State) (base : Word) (bs : List Byte) : State := State.writeBytesFrom base 0 bs s

/-- `check_font_write(base, count)` of R139: with `FONT_WRITE = FAULT`, whether some target address, after its
reduction, lies in 0x000..0x04F. -/
def State.fontWriteFault (s : State) (base : Word) (count : Nat) : Bool :=
  s.params.fontWrite == .fault && (List.range count).any (fun k => decide (memIndex (byteAddr base k) < fontSize))

/-- Store a block at I and advance, or raise FONT_WRITE before any byte is written (R136, R137, R139). -/
def storeBlock (bs : List Byte) (s : State) : Result :=
  if s.fontWriteFault s.i bs.length then raiseFault .fontWrite s
  else .next (s.writeBytes s.i bs).advance

/-- The three decimal digits of a byte: hundreds, tens, ones (R136). -/
def decimalDigits (b : Byte) : List Byte :=
  [BitVec.ofNat 8 (b.toNat / 100), BitVec.ofNat 8 (b.toNat / 10 % 10), BitVec.ofNat 8 (b.toNat % 10)]

/-- `V[0], ..., V[x]` in order (R137). -/
def State.regsUpTo (s : State) (x : Reg) : List Byte := s.v.toList.take (x.val + 1)

/-- The register file after `for k in 0 .. x: V[k] <- MemRead(I + k, 1)` (R138). -/
def State.regsLoaded (s : State) (x : Reg) : Vector Byte 16 :=
  Vector.ofFn (fun k : Fin 16 => if k ≤ x then s.memRead (byteAddr s.i k.val) else s.v[k])

end Sys2Proof.Machine
end

