-- ==== Sys2Proof/Machine/Flags.lean ====
section
/-! DEFINITION. The 8-bit arithmetic flag unit (spec/42_alu.md R97, R98) and the write-back of its outputs (R99). VF is
the core's only flag (spec/10_state.md R32). -/

namespace Sys2Proof.Machine

open Sys2Proof

/-- The operations of the flag unit (R97). -/
inductive AluOp where
  | mov | or | and | xor | addnf | add | sub | subn | shr | shl
  deriving DecidableEq, Repr

/-- What the unit outputs: the result `r`, and the flag bit `f` when VF is written. `fwe` of R97 is `flag.isSome`; the
flag of an operation that does not write VF has no value, as in R98's table. -/
structure AluOut where
  r : Byte
  flag : Option Bool
  deriving DecidableEq, Repr

/-- The functions of R98, on unsigned bytes: computed exactly on numbers, then narrowed. -/
def alu (op : AluOp) (a b : Byte) : AluOut :=
  match op with
  | .mov => { r := b, flag := none }
  | .or => { r := a ||| b, flag := none }
  | .and => { r := a &&& b, flag := none }
  | .xor => { r := a ^^^ b, flag := none }
  | .addnf => { r := BitVec.ofNat 8 (a.toNat + b.toNat), flag := none }
  | .add => { r := BitVec.ofNat 8 (a.toNat + b.toNat), flag := some (decide (a.toNat + b.toNat > 255)) }
  | .sub => { r := BitVec.ofInt 8 (a.toNat - b.toNat : Int), flag := some (decide (a.toNat ≥ b.toNat)) }
  | .subn => { r := BitVec.ofInt 8 (b.toNat - a.toNat : Int), flag := some (decide (b.toNat ≥ a.toNat)) }
  | .shr => { r := a >>> 1, flag := some (a.getLsbD 0) }
  | .shl => { r := a <<< 1, flag := some (a.getLsbD 7) }

/-- Write-back (R99): the result to Vx and the flag to VF; when VF is also Vx, `XF_POLICY` says which survives. -/
def writeBack (x : Reg) (o : AluOut) (s : State) : State :=
  match o.flag with
  | none => s.setV x o.r
  | some f =>
    if x ≠ regF then (s.setV x o.r).setV regF (flagByte f)
    else
      match s.params.xfPolicy with
      | .flagWins => s.setV regF (flagByte f)
      | .resultWins => s.setV regF o.r

/-- An instruction of the flag unit with both operands read before any write (R99, R115), then PC + 2. -/
def execAlu (op : AluOp) (x : Reg) (b : Byte) (s : State) : Result :=
  .next (writeBack x (alu op (s.getV x) b) s).advance

end Sys2Proof.Machine
end

