-- ==== Sys2Proof/Machine/Arith.lean ====
section
/-! DEFINITION. Register arithmetic and RND (spec/42_alu.md), each over the flag unit of Flags.lean. -/

namespace Sys2Proof.Machine

open Sys2Proof

/-- R100. LD Vx, nn. -/
def execLdImm (x : Reg) (nn : Byte) (s : State) : Result := execAlu .mov x nn s

/-- R101. ADD Vx, nn: VF is not written. -/
def execAddImm (x : Reg) (nn : Byte) (s : State) : Result := execAlu .addnf x nn s

/-- R102. LD Vx, Vy. -/
def execLdReg (x y : Reg) (s : State) : Result := execAlu .mov x (s.getV y) s

/-- R103. OR Vx, Vy. -/
def execOr (x y : Reg) (s : State) : Result := execAlu .or x (s.getV y) s

/-- R104. AND Vx, Vy. -/
def execAnd (x y : Reg) (s : State) : Result := execAlu .and x (s.getV y) s

/-- R105. XOR Vx, Vy. -/
def execXor (x y : Reg) (s : State) : Result := execAlu .xor x (s.getV y) s

/-- R106. ADD Vx, Vy: VF is the carry. -/
def execAddReg (x y : Reg) (s : State) : Result := execAlu .add x (s.getV y) s

/-- R107. SUB Vx, Vy: VF is 1 iff there is no borrow. -/
def execSub (x y : Reg) (s : State) : Result := execAlu .sub x (s.getV y) s

/-- R108. SHR Vx: VF is the bit shifted out. Vy is never read: the unit's SHR ignores its operand b (R98). -/
def execShr (x _y : Reg) (s : State) : Result := execAlu .shr x 0 s

/-- R109. SUBN Vx, Vy: Vy - Vx, VF is 1 iff there is no borrow. -/
def execSubn (x y : Reg) (s : State) : Result := execAlu .subn x (s.getV y) s

/-- R110. SHL Vx: VF is the bit shifted out. Vy is never read: the unit's SHL ignores its operand b (R98). -/
def execShl (x _y : Reg) (s : State) : Result := execAlu .shl x 0 s

/-- R111, R112. RND Vx, nn: one random byte is drawn, a free value; the next RND draws another. -/
def execRnd (x : Reg) (nn : Byte) (s : State) : Result :=
  .next ((s.setV x (Config.rnd s.draws &&& nn)).setDraws (s.draws + 1)).advance

end Sys2Proof.Machine
end

