-- ==== Sys2Proof/Machine/Control.lean ====
section
/-! DEFINITION. Control transfer and skips (spec/41_control.md). PC is the address of the instruction being executed. -/

namespace Sys2Proof.Machine

open Sys2Proof

/-- R82. SYS nnn: a 2-byte no-op; `nnn` is ignored. -/
def execSys (_nnn : Addr) (s : State) : Result := .next s.advance

/-- R83. RET: pop, then advance by 2; STACK_UNDERFLOW on an empty stack. The popped slot keeps its value (R23). -/
def execRet (s : State) : Result :=
  if h : s.sp.val = 0 then raiseFault .stackUnderflow s
  else
    let k : Fin 16 := ⟨s.sp.val - 1, by omega⟩
    .next ((s.setSp k.castSucc).setPc (s.stack[k] + 2))

/-- R84. JP nnn. -/
def execJp (nnn : Addr) (s : State) : Result := .next (s.setPc (zextAddr nnn))

/-- R85. CALL nnn: push the CALL's own address; STACK_OVERFLOW when all 16 slots are in use. -/
def execCall (nnn : Addr) (s : State) : Result :=
  if h : s.sp.val < 16 then
    let k : Fin 16 := ⟨s.sp.val, h⟩
    .next (((s.setSlot k s.pc).setSp k.succ).setPc (zextAddr nnn))
  else raiseFault .stackOverflow s

/-- R86. SE Vx, nn. -/
def execSeImm (x : Reg) (nn : Byte) (s : State) : Result := .next (s.skipIf (s.getV x == nn))

/-- R87. SNE Vx, nn. -/
def execSneImm (x : Reg) (nn : Byte) (s : State) : Result := .next (s.skipIf (s.getV x != nn))

/-- R88. SE Vx, Vy. -/
def execSeReg (x y : Reg) (s : State) : Result := .next (s.skipIf (s.getV x == s.getV y))

/-- R89. SNE Vx, Vy. -/
def execSneReg (x y : Reg) (s : State) : Result := .next (s.skipIf (s.getV x != s.getV y))

/-- R90. JP V0, nnn: a target above 0xFFF is kept in PC at full width. -/
def execJpV0 (nnn : Addr) (s : State) : Result := .next (s.setPc (zextAddr nnn + zextByte (s.getV 0)))

/-- The keypad line a register value names, if it names one of the 16 (R91, R92, R145). -/
def keyOfByte (b : Byte) : Option Reg := if h : b.toNat < 16 then some ⟨b.toNat, h⟩ else none

/-- A key skip (R91, R92): skip when the line of key V[x] is `level`; KEY_INDEX when V[x] names no line. -/
def keySkip (x : Reg) (level : Bool) (s : State) : Result :=
  match keyOfByte (s.getV x) with
  | none => raiseFault .keyIndex s
  | some k => .next (s.skipIf (s.key[k] == level))

/-- R91. SKP Vx. -/
def execSkp (x : Reg) (s : State) : Result := keySkip x true s

/-- R92. SKNP Vx. -/
def execSknp (x : Reg) (s : State) : Result := keySkip x false s

end Sys2Proof.Machine
end

