-- ==== Sys2Proof/Machine/Display.lean ====
section
/-! DEFINITION. The draw/collision unit (spec/43_display.md R116): the sprite loops of R118 with the clipping of R121 and
R122, the bit order of R123 and the collision and XOR merge of R124. -/

namespace Sys2Proof.Machine

open Sys2Proof

/-- Pixel (x, y): column x, row y (R26). -/
def Display.pixel (d : Display) (x : Fin 64) (y : Fin 32) : Bool := d[y][x]

/-- Pixel (x, y) inverted, every other pixel unchanged. -/
def Display.toggle (d : Display) (x : Fin 64) (y : Fin 32) : Display := d.set y (d[y].set x (!d[y][x]))

/-- Every pixel dark (R117). -/
def Display.dark : Display := Vector.replicate 32 (Vector.replicate 64 false)

/-- What a draw in progress holds: the display and the collision bit so far. -/
structure DrawAcc where
  disp : Display
  collision : Bool
  deriving DecidableEq, Repr

/-- One sprite bit at an in-bounds pixel (R124): a 1 meeting a lit pixel is a collision, and toggles the pixel; a 0 does
nothing. -/
def DrawAcc.plot (acc : DrawAcc) (bit : Bool) (x : Fin 64) (y : Fin 32) : DrawAcc :=
  if bit then { disp := acc.disp.toggle x y, collision := acc.collision || acc.disp.pixel x y } else acc

/-- Column c of a sprite byte is its bit 7 - c: the most significant bit is the leftmost pixel (R123). -/
def spriteBit (row : Byte) (c : Nat) : Bool := row.getLsbD (7 - c)

/-- The columns of one sprite row (R122): at column 64 the remainder of this row only is abandoned. -/
def drawRow (row : Byte) (x0 : Fin 64) (y : Fin 32) : List Nat → DrawAcc → DrawAcc
  | [], acc => acc
  | c :: cs, acc =>
    if h : x0.val + c < 64 then drawRow row x0 y cs (acc.plot (spriteBit row c) ⟨x0.val + c, h⟩ y) else acc

/-- The rows of a sprite from row r on (R121): at row 32 the entire remaining draw is abandoned. -/
def drawRows (x0 : Fin 64) (y0 : Fin 32) : Nat → List Byte → DrawAcc → DrawAcc
  | _, [], acc => acc
  | r, row :: rows, acc =>
    if h : y0.val + r < 32 then drawRows x0 y0 (r + 1) rows (drawRow row x0 ⟨y0.val + r, h⟩ (List.range 8) acc) else acc

/-- The unit (R116): the sprite `rows` merged into the display at (x0, y0), and the collision bit, 0 at the start (R120). -/
def draw (disp : Display) (x0 : Fin 64) (y0 : Fin 32) (rows : List Byte) : DrawAcc :=
  drawRows x0 y0 0 rows { disp := disp, collision := false }

/-- `V mod 64`: the start column of a draw (R119). -/
def startColumn (b : Byte) : Fin 64 := Fin.ofNat 64 b.toNat

/-- `V mod 32`: the start row of a draw (R119). -/
def startRow (b : Byte) : Fin 32 := Fin.ofNat 32 b.toNat

end Sys2Proof.Machine
end

