-- ==== Sys2Proof/Machine/Draw.lean ====
section
/-! DEFINITION. The two instructions that write the display (spec/43_display.md R117, R118). -/

namespace Sys2Proof.Machine

open Sys2Proof

/-- R117. CLS: VF and GHOST are not touched. -/
def execCls (s : State) : Result := .next (s.setDisp Display.dark).advance

/-- How many of the `n` sprite rows are drawn from start row `y0`, and so read from memory (R121). -/
def drawnRows (y0 : Fin 32) (n : Nibble) : Nat := min n.toNat (32 - y0.val)

/-- R118 to R124. DRW Vx, Vy, n: the coordinates are read before VF is cleared (R119), so they are read here from the
state as it was; VF becomes the collision bit (R120, R124); I does not change. -/
def execDrw (x y : Reg) (n : Nibble) (s : State) : Result :=
  let x0 := startColumn (s.getV x)
  let y0 := startRow (s.getV y)
  let out := draw s.disp x0 y0 (s.readBytes s.i (drawnRows y0 n))
  .next ((s.setV regF (flagByte out.collision)).setDisp out.disp).advance

end Sys2Proof.Machine
end

