-- ==== Sys2Proof/Machine/IndexMem.lean ====
section
/-! DEFINITION. Index register, memory transfer, timers and key wait (spec/44_index_memory_timers.md). -/

namespace Sys2Proof.Machine

open Sys2Proof

/-- R129. LD I, nnn. -/
def execLdI (nnn : Addr) (s : State) : Result := .next (s.setI (zextAddr nnn)).advance

/-- R130. LD Vx, DT. -/
def execLdVxDt (x : Reg) (s : State) : Result := .next (s.setV x s.dt).advance

/-- R131. LD Vx, K: the least pressed key, or block with PC unchanged. -/
def execLdVxK (x : Reg) (s : State) : Result :=
  match leastKey s.key with
  | some k => .next ((s.setV x (BitVec.ofNat 8 k.val)).setWait none).advance
  | none => .next (s.setWait (some x))

/-- R132. LD DT, Vx. -/
def execLdDtVx (x : Reg) (s : State) : Result := .next (s.setDt (s.getV x)).advance

/-- R133. LD ST, Vx. -/
def execLdStVx (x : Reg) (s : State) : Result := .next (s.setSt (s.getV x)).advance

/-- R134. ADD I, Vx: modulo 2^16, VF is not written. -/
def execAddIVx (x : Reg) (s : State) : Result := .next (s.setI (s.i + zextByte (s.getV x))).advance

/-- R135. LD F, Vx: the address of the glyph of Vx's low nibble. -/
def execLdFVx (x : Reg) (s : State) : Result := .next (s.setI (zextByte (s.getV x &&& 0x0F#8) * 5)).advance

/-- R136. LD B, Vx: three decimal digits at I, I+1, I+2. -/
def execLdBVx (x : Reg) (s : State) : Result := storeBlock (decimalDigits (s.getV x)) s

/-- R137. LD [I], Vx: V0..Vx at I, ..., I+x; I is not modified. -/
def execLdMemVx (x : Reg) (s : State) : Result := storeBlock (s.regsUpTo x) s

/-- R138. LD Vx, [I]: V0..Vx from I, ..., I+x; I is not modified. -/
def execLdVxMem (x : Reg) (s : State) : Result := .next (s.setRegs (s.regsLoaded x)).advance

end Sys2Proof.Machine
end

