-- ==== Sys2Proof/Machine/Step.lean ====
section
/-! DEFINITION. One Step (spec/40_cycle.md R70): an existing fault is checked before the key wait, and the key wait
before the fetch (spec/60_exceptions.md R148). -/

namespace Sys2Proof.Machine

open Sys2Proof

/-- R70. The three outcomes of `Host.Outcome`; this machine answers `next` always (R74, R75). -/
def step (s : State) : Host.Outcome State Fault Refusal :=
  if s.fault ≠ .none then faultedStep s
  else
    match s.wait with
    | some x => keyWaitStep x s
    | none =>
      match s.fetchDecode with
      | .op i => exec i s
      | .unrecognized _ => execUnrecognized s

/-- `s` with the instruction word stored where the next fetch reads it, at PC and PC+1. A Step fetches only when no
fault is recorded and no key wait is pending (R70), so FAULT and WAIT are emptied too (assumption log 6). -/
def State.withFetchWord (s : State) (nbits w : Nat) : State :=
  (((s.memWrite s.pc (wordHi (tableWord nbits w))).memWrite (s.pc + 1) (wordLo (tableWord nbits w))).setFault .none).setWait none

end Sys2Proof.Machine
end

