-- ==== Sys2Proof/Machine/HostOps.lean ====
section
/-! DEFINITION. The host operations (spec/70_reset_and_hazards.md R170): Init, Load, Reset, SetKeys, Step, Tick, Save,
Restore, each atomic (spec/00_scope.md R11). After them, the two things the driver does to presentation state, which the
spec describes outside its block (R5, R30, R31). -/

namespace Sys2Proof.Machine

open Sys2Proof

/-- R163. Init, on the machine of `s`: its parameters stay, and the count of random draws goes on, so that a draw after
Init is a fresh one (assumption log 3). -/
def hostInit (s : State) : State := (State.init s.params).setDraws s.draws

/-- R164. Load: copy the image to 0x200 on, truncating silently at 0xE00 bytes; nothing else changes. -/
def hostLoad (image : List Byte) (s : State) : State :=
  s.writeBytes (BitVec.ofNat 16 progBase) (image.take progCapacity)

/-- R165. Reset: Init, then re-copy the bytes now resident from 0x200 to the end of memory. -/
def hostReset (s : State) : State := (hostInit s).setMem (s.mem.from progBase)

/-- R155. SetKeys: all 16 lines at once. -/
def hostSetKeys (k : BitVec 16) (s : State) : State := s.setKey (Vector.ofFn (fun j : Fin 16 => k.getLsbD j.val))

/-- A timer after one Tick: down by one, floor at 0 (R24, R152). -/
def decayTimer (b : Byte) : Byte := if b.toNat > 0 then b - 1 else b

/-- R152. Tick: both timers decay, whether or not FAULT or WAIT is set. -/
def hostTick (s : State) : State := (s.setDt (decayTimer s.dt)).setSt (decayTimer s.st)

/-- The value copy a checkpoint holds: everything but the checkpoint slot and FAULT (R157). -/
def State.snapshot (s : State) : Snapshot :=
  { mem := s.mem, v := s.v, i := s.i, pc := s.pc, stack := s.stack, sp := s.sp, dt := s.dt, st := s.st, key := s.key,
    disp := s.disp, ghost := s.ghost, paused := s.paused, wait := s.wait }

/-- The live state replaced by a snapshot's contents; the slot and FAULT stay (R158), and so do the model's own fields. -/
def State.withSnapshot (s : State) (c : Snapshot) : State :=
  { s with mem := c.mem, v := c.v, i := c.i, pc := c.pc, stack := c.stack, sp := c.sp, dt := c.dt, st := c.st,
           key := c.key, disp := c.disp, ghost := c.ghost, paused := c.paused, wait := c.wait }

/-- R157. Save: overwrite the slot with a copy of the live state. -/
def hostSave (s : State) : State := s.setCkpt (some s.snapshot)

/-- R158. Restore: the snapshot's contents, and the snapshot stays in the slot; a no-op with no snapshot. -/
def hostRestore (s : State) : State :=
  match s.ckpt with
  | none => s
  | some c => s.withSnapshot c

/-- The host operations of R11 and R170. Reading state has no effect and is not listed. -/
inductive HostOp where
  | init
  | load (image : List Byte)
  | reset
  | setKeys (k : BitVec 16)
  | step
  | tick
  | save
  | restore
  deriving DecidableEq, Repr

/-- One host operation. -/
def HostOp.apply (op : HostOp) (s : State) : Result :=
  match op with
  | .init => .next (hostInit s)
  | .load image => .next (hostLoad image s)
  | .reset => .next (hostReset s)
  | .setKeys k => .next (hostSetKeys k s)
  | .step => Sys2Proof.Machine.step s
  | .tick => .next (hostTick s)
  | .save => .next (hostSave s)
  | .restore => .next (hostRestore s)

/-- A sequence of host operations, one after another (R11, R168, R171); a stop ends it. -/
def HostOp.applyAll : List HostOp → State → Result
  | [], s => .next s
  | op :: ops, s =>
    match op.apply s with
    | .next t => HostOp.applyAll ops t
    | .fault r => .fault r
    | .refused r => .refused r

/-! ### Presentation state, outside the block -/

/-- R31. The driver sets or clears PAUSED. -/
def driverSetPaused (b : Bool) (s : State) : State := s.setPaused b

/-- One pixel of the ghost decay of R30, with the two constants the source does not give as arguments. -/
def ghostPixel (maximum fall : Byte) (lit : Bool) (g : Byte) : Byte :=
  if lit then maximum else BitVec.ofNat 8 (g.toNat - fall.toNat)

/-- R30. The driver's ghost decay, once per rendered frame, skipped while paused: a lit pixel snaps to the maximum, an
unlit one falls by a fixed step, floored at zero. -/
def driverGhostDecay (maximum fall : Byte) (s : State) : State :=
  if s.paused then s
  else s.setGhost (Vector.ofFn (fun y : Fin 32 => Vector.ofFn (fun x : Fin 64 =>
    ghostPixel maximum fall s.disp[y][x] s.ghost[y][x])))

end Sys2Proof.Machine
end

