-- ==== Sys2Proof/Safety.lean ====
section
/-! DEFINITION. The terms in which claims about the core are stated: what counts as running, the parts of the state and
the frame of an instruction, the invariant, and the spec's tables written a second time, apart from the machine, so that
a claim can hold the machine against them. -/

namespace Sys2Proof.Safety

open Sys2Proof Sys2Proof.Machine

/-- The core is running: no fault is recorded and no key wait is pending, so a Step fetches (R70). -/
def Running (s : State) : Prop := s.fault = .none ∧ s.wait = none

/-- The memory of `s` is in the canonical form. -/
def MemoryCanonical (s : State) : Prop := Memory.wf (initByte s.params) s.mem

/-! ### Frames -/

/-- The parts of the state other than the general registers and PC. -/
inductive Part where
  | mem | i | stack | dt | st | key | disp | ghost | paused | wait | ckpt | fault | params | draws
  deriving DecidableEq, Repr

/-- A part is the same in two states. Memory is compared by reading every byte; STACK goes with SP. -/
def Part.Same (s t : State) : Part → Prop
  | .mem => ∀ a : Word, t.memRead a = s.memRead a
  | .i => t.i = s.i
  | .stack => t.stack = s.stack ∧ t.sp = s.sp
  | .dt => t.dt = s.dt
  | .st => t.st = s.st
  | .key => t.key = s.key
  | .disp => t.disp = s.disp
  | .ghost => t.ghost = s.ghost
  | .paused => t.paused = s.paused
  | .wait => t.wait = s.wait
  | .ckpt => t.ckpt = s.ckpt
  | .fault => t.fault = s.fault
  | .params => t.params = s.params
  | .draws => t.draws = s.draws

/-- From `s` to `t` every general register but `regs` and every part but `parts` is unchanged. PC may change. -/
def Frame (regs : List Reg) (parts : List Part) (s t : State) : Prop :=
  (∀ z : Reg, z ∉ regs → t.v[z] = s.v[z]) ∧ ∀ p : Part, p ∉ parts → p.Same s t

/-! ### Encodings, as numbers of spec/opcode_table.json: the row's match plus each field at its place -/

/-- The number of an instruction's word. -/
def tableValue : Instr → Nat
  | .sys nnn => 0x0000 + nnn.toNat
  | .cls => 0x00E0
  | .ret => 0x00EE
  | .jp nnn => 0x1000 + nnn.toNat
  | .call nnn => 0x2000 + nnn.toNat
  | .seImm x nn => 0x3000 + 0x100 * x.val + nn.toNat
  | .sneImm x nn => 0x4000 + 0x100 * x.val + nn.toNat
  | .seReg x y => 0x5000 + 0x100 * x.val + 0x10 * y.val
  | .ldImm x nn => 0x6000 + 0x100 * x.val + nn.toNat
  | .addImm x nn => 0x7000 + 0x100 * x.val + nn.toNat
  | .ldReg x y => 0x8000 + 0x100 * x.val + 0x10 * y.val
  | .orReg x y => 0x8001 + 0x100 * x.val + 0x10 * y.val
  | .andReg x y => 0x8002 + 0x100 * x.val + 0x10 * y.val
  | .xorReg x y => 0x8003 + 0x100 * x.val + 0x10 * y.val
  | .addReg x y => 0x8004 + 0x100 * x.val + 0x10 * y.val
  | .subReg x y => 0x8005 + 0x100 * x.val + 0x10 * y.val
  | .shr x y => 0x8006 + 0x100 * x.val + 0x10 * y.val
  | .subnReg x y => 0x8007 + 0x100 * x.val + 0x10 * y.val
  | .shl x y => 0x800E + 0x100 * x.val + 0x10 * y.val
  | .sneReg x y => 0x9000 + 0x100 * x.val + 0x10 * y.val
  | .ldI nnn => 0xA000 + nnn.toNat
  | .jpV0 nnn => 0xB000 + nnn.toNat
  | .rnd x nn => 0xC000 + 0x100 * x.val + nn.toNat
  | .drw x y n => 0xD000 + 0x100 * x.val + 0x10 * y.val + n.toNat
  | .skp x => 0xE09E + 0x100 * x.val
  | .sknp x => 0xE0A1 + 0x100 * x.val
  | .ldVxDt x => 0xF007 + 0x100 * x.val
  | .ldVxK x => 0xF00A + 0x100 * x.val
  | .ldDtVx x => 0xF015 + 0x100 * x.val
  | .ldStVx x => 0xF018 + 0x100 * x.val
  | .addIVx x => 0xF01E + 0x100 * x.val
  | .ldFVx x => 0xF029 + 0x100 * x.val
  | .ldBVx x => 0xF033 + 0x100 * x.val
  | .ldMemVx x => 0xF055 + 0x100 * x.val
  | .ldVxMem x => 0xF065 + 0x100 * x.val

/-- The UNRECOGNIZED set of R63, by the numbers of the word's nibbles. -/
def UnlistedWord (w : Word) : Prop :=
  (w.toNat / 4096 = 5 ∧ w.toNat % 16 ≠ 0) ∨ (w.toNat / 4096 = 9 ∧ w.toNat % 16 ≠ 0) ∨
  (w.toNat / 4096 = 8 ∧ w.toNat % 16 ∈ [0x8, 0x9, 0xA, 0xB, 0xC, 0xD, 0xF]) ∨
  (w.toNat / 4096 = 0xE ∧ w.toNat % 256 ∉ [0x9E, 0xA1]) ∨
  (w.toNat / 4096 = 0xF ∧ w.toNat % 256 ∉ [0x07, 0x0A, 0x15, 0x18, 0x1E, 0x29, 0x33, 0x55, 0x65])

/-! ### Who writes what -/

/-- The general registers an instruction may write (R18), for an instruction that does not fault. -/
def mayWriteRegs : Instr → List Reg
  | .sys _ | .cls | .ret | .jp _ | .call _ | .seImm _ _ | .sneImm _ _ | .seReg _ _ | .sneReg _ _ => []
  | .ldImm x _ | .addImm x _ | .ldReg x _ | .orReg x _ | .andReg x _ | .xorReg x _ | .rnd x _ => [x]
  | .addReg x _ | .subReg x _ | .shr x _ | .subnReg x _ | .shl x _ => [x, regF]
  | .drw _ _ _ => [regF]
  | .ldVxDt x | .ldVxK x => [x]
  | .ldVxMem x => (List.finRange 16).filter (fun k => k ≤ x)
  | .ldI _ | .jpV0 _ | .skp _ | .sknp _ | .ldDtVx _ | .ldStVx _ | .addIVx _ | .ldFVx _ | .ldBVx _ | .ldMemVx _ => []

/-- The other parts an instruction may write: I by Annn, Fx1E and Fx29 (R21), the stack by CALL and RET (R22), the timers
by Fx15 and Fx18 (R24), the display by CLS and DRW (R26), WAIT by Fx0A (R27), memory by Fx33 and Fx55 (R38). A faulting
form writes FAULT (R142). -/
def mayWriteParts : Instr → List Part
  | .cls => [.disp]
  | .ret | .call _ => [.stack, .fault]
  | .ldI _ | .addIVx _ | .ldFVx _ => [.i]
  | .rnd _ _ => [.draws]
  | .drw _ _ _ => [.disp]
  | .skp _ | .sknp _ => [.fault]
  | .ldVxK _ => [.wait]
  | .ldDtVx _ => [.dt]
  | .ldStVx _ => [.st]
  | .ldBVx _ | .ldMemVx _ => [.mem, .fault]
  | .sys _ | .jp _ | .seImm _ _ | .sneImm _ _ | .seReg _ _ | .sneReg _ _ | .jpV0 _ => []
  | .ldImm _ _ | .addImm _ _ | .ldReg _ _ | .orReg _ _ | .andReg _ _ | .xorReg _ _ => []
  | .addReg _ _ | .subReg _ _ | .shr _ _ | .subnReg _ _ | .shl _ _ => []
  | .ldVxDt _ | .ldVxMem _ => []

/-! ### Control flow -/

/-- The jumps, calls and returns, which overwrite PC (R76). -/
def isTransfer : Instr → Bool
  | .jp _ | .call _ | .ret | .jpV0 _ => true
  | _ => false

/-- The line of key number `b` exists and is pressed. -/
def Pressed (s : State) (b : Byte) : Prop := ∃ k : Reg, k.val = b.toNat ∧ s.key[k] = true

/-- The skip condition of an instruction holds (R86 to R92); an instruction that is no skip has none. -/
def SkipHolds (s : State) : Instr → Prop
  | .seImm x nn => s.v[x] = nn
  | .sneImm x nn => s.v[x] ≠ nn
  | .seReg x y => s.v[x] = s.v[y]
  | .sneReg x y => s.v[x] ≠ s.v[y]
  | .skp x => Pressed s s.v[x]
  | .sknp x => ¬ Pressed s s.v[x]
  | _ => False

/-- Fx0A with no key pressed: the key-wait block (R131). -/
def Blocks (s : State) (i : Instr) : Prop := (∃ x, i = .ldVxK x) ∧ ∀ k : Reg, s.key[k] = false

/-- Key `k` is the least pressed one. -/
def LeastPressed (s : State) (k : Reg) : Prop := s.key[k] = true ∧ ∀ j : Reg, j < k → s.key[j] = false

/-! ### Faults -/

/-- A store of `count` bytes at `base` is one `FONT_WRITE = FAULT` forbids (R139): some target address, reduced modulo
4096, lies in the font region. -/
def FontForbids (s : State) (base : Word) (count : Nat) : Prop :=
  s.params.fontWrite = .fault ∧ ∃ k : Nat, k < count ∧ (base.toNat + k) % 4096 < 0x50

/-- The fault an instruction raises in a state, by the table of R142; `none` where it raises none. -/
def Raises (s : State) : Instr → FaultCode → Prop
  | .call _, c => c = .stackOverflow ∧ s.sp.val = 16
  | .ret, c => c = .stackUnderflow ∧ s.sp.val = 0
  | .skp x, c => c = .keyIndex ∧ 16 ≤ s.v[x].toNat
  | .sknp x, c => c = .keyIndex ∧ 16 ≤ s.v[x].toNat
  | .ldBVx _, c => c = .fontWrite ∧ FontForbids s s.i 3
  | .ldMemVx x, c => c = .fontWrite ∧ FontForbids s s.i (x.val + 1)
  | _, _ => False

/-! ### Arithmetic -/

/-- The post-state of a flag-writing instruction with destination Vx, result `r` and flag `f` (R99): for x = F the
parameter `XF_POLICY` says which of the two VF keeps. -/
def FlagResult (s t : State) (x : Reg) (r : Nat) (f : Prop) : Prop :=
  (x ≠ 15 → t.v[x].toNat = r ∧ (f → t.v[regF] = 1) ∧ (¬ f → t.v[regF] = 0)) ∧
  (x = 15 → s.params.xfPolicy = .flagWins → (f → t.v[regF] = 1) ∧ (¬ f → t.v[regF] = 0)) ∧
  (x = 15 → s.params.xfPolicy = .resultWins → t.v[regF].toNat = r)

/-! ### Drawing -/

/-- The set B of R127, seen from the screen: pixel (px, py) carries an in-bounds 1 bit of the sprite that DRW Vx, Vy, n
draws in `s`: row r and column c of the sprite land on it, and bit 7 - c of the byte at I + r is 1. -/
def SpriteCovers (s : State) (x y : Reg) (n : Nibble) (px : Fin 64) (py : Fin 32) : Prop :=
  ∃ r c : Nat, r < n.toNat ∧ c < 8 ∧ py.val = s.v[y].toNat % 32 + r ∧ px.val = s.v[x].toNat % 64 + c ∧
    (s.memRead (byteAddr s.i r)).getLsbD (7 - c) = true

/-! ### The invariant -/

/-- What holds of a machine state, live or saved: memory is in the canonical form (R38), and while WAIT is non-empty PC
holds the address of the blocked Fx0A, whose x is the waiting register (R27). -/
def SnapshotInv (p : Params) (c : Snapshot) : Prop :=
  Memory.wf (initByte p) c.mem ∧
  ∀ x : Reg, c.wait = some x →
    decode (Memory.read (initByte p) c.mem (memIndex c.pc) ++ Memory.read (initByte p) c.mem (memIndex (c.pc + 1))) =
      .op (.ldVxK x)

/-- The invariant of the core: it holds of the live state and of the checkpoint. -/
def Inv (s : State) : Prop := SnapshotInv s.params s.snapshot ∧ ∀ c : Snapshot, s.ckpt = some c → SnapshotInv s.params c

/-- The host operations that cannot end a fault or a stall: all but Init, Reset and Restore (R72, R147). -/
def ordinaryOp : HostOp → Bool
  | .load _ | .setKeys _ | .step | .tick | .save => true
  | .init | .reset | .restore => false

end Sys2Proof.Safety
end

