-- ==== Sys2Proof/Certificates/Slice0/Obligations.lean ====
section
/-! DEFINITION. The statements for the provers, in the order of the spec's files. Each docstring names the rule or the
section it formalises; where a clause rests on a choice the spec marks as its own (a decision D<n>, a passage from general
knowledge) the docstring says so. -/

open Sys2Proof Sys2Proof.Machine Sys2Proof.Safety

/-! ### Encoding (spec/30_encoding.md) -/

/-- Decode and encode agree: every field of every well-formed instruction survives the round trip (R54, R57, R65). -/
def Obligations.DecodeInvertsEncode : Prop :=
  ∀ i : Instr, i.wellFormed = true → decode (encode i) = .op i

/-- Each word has one meaning: what a word decodes to is well-formed and encodes to that word again. -/
def Obligations.EncodeInvertsDecode : Prop :=
  ∀ (w : Word) (i : Instr), decode w = .op i → i.wellFormed = true ∧ encode i = w

/-- The encoder gives the numbers of spec/opcode_table.json: the row's match plus each field at its place. -/
def Obligations.EncodingsAreTheOpcodeTable : Prop :=
  ∀ i : Instr, (encode i).toNat = tableValue i

/-- The UNRECOGNIZED set is exactly the set of R63, and the decoder then carries the raw word; every other word is one of
the 35. That the fixed fields are checked exactly is the spec's decision D17. -/
def Obligations.UnrecognizedWordsAreTheListedSet : Prop :=
  ∀ w : Word, (decode w = .unrecognized w ↔ UnlistedWord w) ∧ ((∃ i, decode w = .op i) ↔ ¬ UnlistedWord w)

/-- Words written out from the encodings, one or more of each family, decode to what they stand for (decoder vectors of
spec/95_test_vectors.md section 2). -/
def Obligations.SampleWordsDecode : Prop :=
  decode 0x0000 = .op (.sys 0x000) ∧ decode 0x00E0 = .op .cls ∧ decode 0x00EE = .op .ret ∧
  decode 0x1ABC = .op (.jp 0xABC) ∧ decode 0x2300 = .op (.call 0x300) ∧ decode 0x3A7F = .op (.seImm 0xA 0x7F) ∧
  decode 0x4B00 = .op (.sneImm 0xB 0x00) ∧ decode 0x5120 = .op (.seReg 1 2) ∧ decode 0x6F12 = .op (.ldImm 0xF 0x12) ∧
  decode 0x7001 = .op (.addImm 0 0x01) ∧ decode 0xA123 = .op (.ldI 0x123) ∧
  decode 0x812E = .op (.shl 1 2) ∧ decode 0x9120 = .op (.sneReg 1 2) ∧ decode 0xB123 = .op (.jpV0 0x123) ∧
  decode 0xC3F0 = .op (.rnd 3 0xF0) ∧ decode 0xDEFF = .op (.drw 0xE 0xF 0xF) ∧ decode 0xEFA1 = .op (.sknp 0xF) ∧
  decode 0xF133 = .op (.ldBVx 1) ∧ decode 0xFF65 = .op (.ldVxMem 0xF) ∧ decode 0x8128 = .unrecognized 0x8128

/-! ### The step (spec/40_cycle.md) -/

/-- A Step of a running core fetches the two bytes at PC and PC+1, big-endian, decodes them and does exactly what `exec`
does (R70, R74). -/
def Obligations.StepRunsTheDecodedInstruction : Prop :=
  ∀ (s : State) (i : Instr), Running s →
    decode (s.memRead s.pc ++ s.memRead (s.pc + 1)) = .op i → step s = exec i s

/-- A word stored at PC is the word the next Step executes (R52, R173): self-modifying code needs nothing in between. -/
def Obligations.StoredWordIsTheNextExecuted : Prop :=
  ∀ (s : State) (w : Word) (i : Instr), MemoryCanonical s → decode w = .op i →
    step (s.withFetchWord 16 w.toNat) = exec i (s.withFetchWord 16 w.toNat) ∧
    ∀ a : Word, memIndex a ≠ memIndex s.pc → memIndex a ≠ memIndex (s.pc + 1) →
      (s.withFetchWord 16 w.toNat).memRead a = s.memRead a

/-- R77: an unrecognized word is a 2-byte no-op: PC + 2 modulo 2^16 and nothing else changes. -/
def Obligations.UnrecognizedWordOnlyAdvancesPc : Prop :=
  ∀ s : State, Running s → UnlistedWord (s.memRead s.pc ++ s.memRead (s.pc + 1)) →
    ∃ t, step s = .next t ∧ t.pc.toNat = (s.pc.toNat + 2) % 65536 ∧ Frame [] [] s t

/-- R72: while WAIT is non-empty a Step neither fetches nor decodes (its effect does not depend on memory), and under
STALL it changes nothing, however many Steps there are; no other host operation but Init, Reset and Restore makes
progress either. Init and Reset empty WAIT, and a Restore leaves the snapshot's WAIT. -/
def Obligations.StalledKeyWaitMakesNoProgress : Prop :=
  ∀ (s : State) (x : Reg), s.wait = some x →
    (∀ (m : Memory) (t : State), step s = .next t → step (s.setMem m) = .next (t.setMem m)) ∧
    (s.params.keywaitMode = .stall →
      (∀ n : Nat, Host.Core.run core n s = .next s) ∧
      ∀ (ops : List HostOp) (t : State), (∀ op ∈ ops, ordinaryOp op = true) → HostOp.applyAll ops s = .next t →
        t.wait = some x ∧ t.pc = s.pc ∧ t.v = s.v ∧ t.i = s.i ∧ t.stack = s.stack ∧ t.sp = s.sp ∧ t.disp = s.disp) ∧
    (hostInit s).wait = none ∧ (hostReset s).wait = none ∧
    ∀ c : Snapshot, s.ckpt = some c → (hostRestore s).wait = c.wait

/-- R73 (the spec's decisions D15 and D27): under RESUME a Step during the wait changes nothing while no key is pressed;
otherwise the least pressed key goes to the waiting register, WAIT is emptied and PC advances by 2. -/
def Obligations.ResumedKeyWaitStoresTheLeastKey : Prop :=
  ∀ (s : State) (x : Reg), s.fault = .none → s.wait = some x → s.params.keywaitMode = .resume →
    ((∀ k : Reg, s.key[k] = false) → step s = .next s) ∧
    ∀ k : Reg, LeastPressed s k →
      ∃ t, step s = .next t ∧ t.v[x].toNat = k.val ∧ t.wait = none ∧ t.pc = s.pc + 2 ∧ Frame [x] [.wait] s t

/-- After any instruction other than a jump, call, return or key-wait block, PC is 2 further, or 4 further exactly when
the instruction is a skip whose condition holds (section 3 of spec/40_cycle.md). Two clauses are not the source's: that an
instruction that faults leaves PC unchanged is the spec's own addition (D14), and the skip conditions, `SkipHolds`, are
from general knowledge (spec/41_control.md sections 2 and 3). -/
def Obligations.PcAdvancesByTwoOrByFourOnASkip : Prop :=
  ∀ (i : Instr) (s t : State), s.fault = .none → exec i s = .next t →
    (t.fault ≠ .none → t.pc = s.pc) ∧
    (t.fault = .none → isTransfer i = false → ¬ Blocks s i →
      (SkipHolds s i → t.pc = s.pc + 4) ∧ (¬ SkipHolds s i → t.pc = s.pc + 2))

/-- R80: Step never writes GHOST, PAUSED or CKPT and its effect does not depend on them; DT and ST change only through
Fx15 and Fx18, to the register's value, and DT is read only through Fx07. -/
def Obligations.StepLeavesTimersAndHostStateAlone : Prop :=
  ∀ s t : State, step s = .next t →
    (t.ghost = s.ghost ∧ t.paused = s.paused ∧ t.ckpt = s.ckpt) ∧
    (∀ (g : Ghost) (p : Bool) (c : Option Snapshot),
      step (((s.setGhost g).setPaused p).setCkpt c) = .next (((t.setGhost g).setPaused p).setCkpt c)) ∧
    (t.dt ≠ s.dt → ∃ x : Reg, Running s ∧ s.fetchDecode = .op (.ldDtVx x) ∧ t.dt = s.v[x]) ∧
    (t.st ≠ s.st → ∃ x : Reg, Running s ∧ s.fetchDecode = .op (.ldStVx x) ∧ t.st = s.v[x]) ∧
    (∀ d : Byte, (∀ x : Reg, s.fetchDecode ≠ .op (.ldVxDt x)) →
      ∃ e : Byte, step (s.setDt d) = .next (t.setDt e))

/-- R81: Step never writes the keypad latch, and reads it only in SKP, SKNP, LD_VX_K and the RESUME wait resolution: any
other Step has the same effect whatever keys are pressed. -/
def Obligations.StepReadsTheKeypadOnlyInKeyInstructions : Prop :=
  ∀ s t : State, step s = .next t →
    t.key = s.key ∧
    ∀ k : Vector Bool 16,
      (s.wait = none → ∀ x : Reg, s.fetchDecode ≠ .op (.skp x) ∧ s.fetchDecode ≠ .op (.sknp x) ∧
        s.fetchDecode ≠ .op (.ldVxK x)) →
      (s.wait ≠ none → s.params.keywaitMode = .stall) →
      step (s.setKey k) = .next (t.setKey k)

/-- Every instruction, every Step and every host operation answers a next state in every state. That an instruction which
meets a fault condition answers one too is the model's reading and no rule of the spec: its faults are states the machine
goes to, and the type `Fault` is empty (assumption log 7, DEDUCED). -/
def Obligations.NothingEverStops : Prop :=
  (∀ (i : Instr) (s : State), ∃ t, exec i s = .next t) ∧ (∀ s : State, ∃ t, step s = .next t) ∧
  ∀ (ops : List HostOp) (s : State), ∃ t, HostOp.applyAll ops s = .next t

/-! ### The invariant -/

/-- Every Step keeps the invariant: the live and the saved memory stay in the canonical form, and while WAIT is non-empty
PC holds the address of the blocked Fx0A, whose x is the waiting register (R27). -/
def Obligations.StepKeepsTheInvariant : Prop :=
  ∀ s t : State, Inv s → step s = .next t → Inv t

/-- The invariant holds after Init, whatever the parameters. -/
def Obligations.InitMeetsTheInvariant : Prop :=
  (∀ p : Params, Inv (State.init p)) ∧ Inv State.reset

/-- Every host operation keeps the invariant, but for Load, which may overwrite the word a key wait is blocked at and
keeps it when no wait is pending. -/
def Obligations.HostOperationsKeepTheInvariant : Prop :=
  ∀ (op : HostOp) (s t : State), Inv s → op.apply s = .next t →
    ((∃ image, op = .load image) → s.wait = none) → Inv t

/-! ### Whole-machine frames and faults (spec/10_state.md, spec/60_exceptions.md) -/

/-- R18, R21, R22, R24 to R27, R38: each part of the state is written by the listed instructions and no others. -/
def Obligations.EveryInstructionKeepsItsFrame : Prop :=
  ∀ (i : Instr) (s t : State), exec i s = .next t → Frame (mayWriteRegs i) (mayWriteParts i) s t

/-- R142 (the spec's decisions D11 to D14 and D19): an instruction records a fault exactly in the listed cases, with the
listed code. -/
def Obligations.FaultsAreRaisedExactlyWhereListed : Prop :=
  ∀ (i : Instr) (s : State), s.fault = .none →
    ∃ t, exec i s = .next t ∧ (t.fault = .none ↔ ∀ c, ¬ Raises s i c) ∧ (∀ c, Raises s i c → t.fault = c)

/-- R141 (D14): a fault is precise: the instruction that raises one changes FAULT and nothing else, PC included. -/
def Obligations.FaultsArePrecise : Prop :=
  ∀ (i : Instr) (s t : State) (c : FaultCode), Raises s i c → exec i s = .next t → t = s.setFault c

/-- R71, R147 (D14): once FAULT is set every Step changes nothing, and no sequence of host operations without Init and
Reset clears or changes it; Init and Reset clear it. -/
def Obligations.FaultsAreSticky : Prop :=
  ∀ s : State, s.fault ≠ .none →
    (∀ n : Nat, Host.Core.run core n s = .next s) ∧
    (∀ (ops : List HostOp) (t : State), (∀ op ∈ ops, op ≠ .init ∧ op ≠ .reset) → HostOp.applyAll ops s = .next t →
      t.fault = s.fault) ∧
    (hostInit s).fault = .none ∧ (hostReset s).fault = .none

/-! ### Control transfer (spec/41_control.md) -/

/-- SYS only advances (D16), and JP sets PC to its 12-bit target (section 2, from general knowledge). -/
def Obligations.SysAdvancesAndJpJumps : Prop :=
  ∀ (nnn : Addr) (s : State),
    (∃ t, exec (.sys nnn) s = .next t ∧ t.pc = s.pc + 2 ∧ Frame [] [] s t) ∧
    (∃ t, exec (.jp nnn) s = .next t ∧ t.pc.toNat = nnn.toNat ∧ Frame [] [] s t)

/-- R90: Bnnn goes to nnn + V0, kept in PC at full width; the x nibble is part of nnn; the next fetch reads at the target
modulo 4096. -/
def Obligations.JumpWithV0AddsV0 : Prop :=
  ∀ (nnn : Addr) (s : State),
    decode (0xB#4 ++ nnn) = .op (.jpV0 nnn) ∧
    ∃ t, exec (.jpV0 nnn) s = .next t ∧ t.pc.toNat = nnn.toNat + s.v[(0 : Reg)].toNat ∧ Frame [] [] s t ∧
      t.fetchWord = Memory.read (initByte s.params) s.mem ((nnn.toNat + s.v[(0 : Reg)].toNat) % 4096) ++
        Memory.read (initByte s.params) s.mem ((nnn.toNat + s.v[(0 : Reg)].toNat + 1) % 4096)

/-- CALL with a free slot pushes its own address and jumps; with none it raises STACK_OVERFLOW (D11). -/
def Obligations.CallPushesItsOwnAddress : Prop :=
  ∀ (nnn : Addr) (s : State),
    (∀ h : s.sp.val < 16,
      ∃ t, exec (.call nnn) s = .next t ∧ t.pc.toNat = nnn.toNat ∧ t.sp.val = s.sp.val + 1 ∧
        t.stack[s.sp.val] = s.pc ∧ (∀ k : Fin 16, k.val ≠ s.sp.val → t.stack[k] = s.stack[k]) ∧
        Frame [] [.stack] s t) ∧
    (s.sp.val = 16 → exec (.call nnn) s = .next (s.setFault .stackOverflow))

/-- RET pops, goes to the popped address plus 2 and leaves the slot as it was (D28); on an empty stack it raises
STACK_UNDERFLOW (D12). -/
def Obligations.RetReturnsPastTheCall : Prop :=
  ∀ s : State,
    (∀ h : 0 < s.sp.val,
      ∃ t, exec .ret s = .next t ∧ t.pc = s.stack[s.sp.val - 1]'(by have := s.sp.isLt; omega) + 2 ∧
        t.sp.val = s.sp.val - 1 ∧ t.stack = s.stack ∧ Frame [] [.stack] s t) ∧
    (s.sp.val = 0 → exec .ret s = .next (s.setFault .stackUnderflow))

/-- R95: calling then immediately returning leaves PC at the call-site address + 2 and SP as before the call. -/
def Obligations.CallThenReturnComesBack : Prop :=
  ∀ (nnn : Addr) (s : State), s.sp.val < 16 →
    ∃ t u, exec (.call nnn) s = .next t ∧ exec .ret t = .next u ∧ u.pc = s.pc + 2 ∧ u.sp = s.sp

/-- The register and immediate skips: PC + 4 when the condition holds, PC + 2 otherwise, nothing else changes (section 2;
the conditions are from general knowledge). -/
def Obligations.RegisterSkipsCompleteAndChangeOnlyPc : Prop :=
  ∀ (i : Instr) (s : State), ((∃ x nn, i = .seImm x nn ∨ i = .sneImm x nn) ∨ (∃ x y, i = .seReg x y ∨ i = .sneReg x y)) →
    ∃ t, exec i s = .next t ∧ (SkipHolds s i → t.pc = s.pc + 4) ∧ (¬ SkipHolds s i → t.pc = s.pc + 2) ∧ Frame [] [] s t

/-- The key skips test the line numbered by the value of Vx (section 3, from general knowledge); a value that names no line
raises KEY_INDEX (D13). -/
def Obligations.KeySkipsTestTheKeyNamedByVx : Prop :=
  ∀ (x : Reg) (s : State),
    (∀ h : s.v[x].toNat < 16,
      (∃ t, exec (.skp x) s = .next t ∧ t.pc = (if s.key[s.v[x].toNat] then s.pc + 4 else s.pc + 2) ∧ Frame [] [] s t) ∧
      (∃ t, exec (.sknp x) s = .next t ∧ t.pc = (if s.key[s.v[x].toNat] then s.pc + 2 else s.pc + 4) ∧
        Frame [] [] s t)) ∧
    (16 ≤ s.v[x].toNat →
      exec (.skp x) s = .next (s.setFault .keyIndex) ∧ exec (.sknp x) s = .next (s.setFault .keyIndex))

/-! ### Register arithmetic (spec/42_alu.md) -/

/-- The moves, the logic operations and ADD Vx, nn write Vx and no flag, VF included (sections 2 and 3; general knowledge
and the decisions D7 and D8). -/
def Obligations.UnflaggedArithmeticWritesOnlyVx : Prop :=
  ∀ (x y : Reg) (nn : Byte) (s : State),
    (∃ t, exec (.ldImm x nn) s = .next t ∧ t.v[x] = nn ∧ t.pc = s.pc + 2 ∧ Frame [x] [] s t) ∧
    (∃ t, exec (.addImm x nn) s = .next t ∧ t.v[x].toNat = (s.v[x].toNat + nn.toNat) % 256 ∧ t.pc = s.pc + 2 ∧
      Frame [x] [] s t) ∧
    (∃ t, exec (.ldReg x y) s = .next t ∧ t.v[x] = s.v[y] ∧ t.pc = s.pc + 2 ∧ Frame [x] [] s t) ∧
    (∃ t, exec (.orReg x y) s = .next t ∧ t.v[x] = s.v[x] ||| s.v[y] ∧ t.pc = s.pc + 2 ∧ Frame [x] [] s t) ∧
    (∃ t, exec (.andReg x y) s = .next t ∧ t.v[x] = s.v[x] &&& s.v[y] ∧ t.pc = s.pc + 2 ∧ Frame [x] [] s t) ∧
    (∃ t, exec (.xorReg x y) s = .next t ∧ t.v[x] = s.v[x] ^^^ s.v[y] ∧ t.pc = s.pc + 2 ∧ Frame [x] [] s t)

/-- R106 to R110: the results and flags of ADD, SUB, SHR, SUBN and SHL, as numbers, with their encodings; SHR and SHL
ignore y. Where x = F the parameter XF_POLICY says what VF keeps, as R99 has it (the spec's decision D6). -/
def Obligations.FlaggedArithmeticResults : Prop :=
  ∀ (x y : Reg) (s : State),
    (decode (0x8#4 ++ (regBits x ++ (regBits y ++ 0x4#4))) = .op (.addReg x y) ∧
      ∃ t, exec (.addReg x y) s = .next t ∧ t.pc = s.pc + 2 ∧ Frame [x, regF] [] s t ∧
        FlagResult s t x ((s.v[x].toNat + s.v[y].toNat) % 256) (s.v[x].toNat + s.v[y].toNat > 255)) ∧
    (decode (0x8#4 ++ (regBits x ++ (regBits y ++ 0x5#4))) = .op (.subReg x y) ∧
      ∃ t, exec (.subReg x y) s = .next t ∧ t.pc = s.pc + 2 ∧ Frame [x, regF] [] s t ∧
        FlagResult s t x ((s.v[x].toNat + 256 - s.v[y].toNat) % 256) (s.v[x].toNat ≥ s.v[y].toNat)) ∧
    (decode (0x8#4 ++ (regBits x ++ (regBits y ++ 0x6#4))) = .op (.shr x y) ∧
      ∃ t, exec (.shr x y) s = .next t ∧ t.pc = s.pc + 2 ∧ Frame [x, regF] [] s t ∧
        FlagResult s t x (s.v[x].toNat / 2) (s.v[x].toNat % 2 = 1)) ∧
    (decode (0x8#4 ++ (regBits x ++ (regBits y ++ 0x7#4))) = .op (.subnReg x y) ∧
      ∃ t, exec (.subnReg x y) s = .next t ∧ t.pc = s.pc + 2 ∧ Frame [x, regF] [] s t ∧
        FlagResult s t x ((s.v[y].toNat + 256 - s.v[x].toNat) % 256) (s.v[y].toNat ≥ s.v[x].toNat)) ∧
    (decode (0x8#4 ++ (regBits x ++ (regBits y ++ 0xE#4))) = .op (.shl x y) ∧
      ∃ t, exec (.shl x y) s = .next t ∧ t.pc = s.pc + 2 ∧ Frame [x, regF] [] s t ∧
        FlagResult s t x (2 * s.v[x].toNat % 256) (s.v[x].toNat ≥ 128))

/-- R114: the flag laws, for x ≠ F, and for x = F too under FLAG_WINS. -/
def Obligations.FlagLawsHold : Prop :=
  ∀ (x y : Reg) (s : State), (x = regF → s.params.xfPolicy = .flagWins) →
    (∃ t, exec (.addReg x y) s = .next t ∧ (t.v[regF] = 1 ↔ s.v[x].toNat + s.v[y].toNat > 255) ∧ (t.v[regF] = 0 ∨ t.v[regF] = 1)) ∧
    (∃ t, exec (.subReg x y) s = .next t ∧ (t.v[regF] = 1 ↔ s.v[x].toNat ≥ s.v[y].toNat) ∧ (t.v[regF] = 0 ∨ t.v[regF] = 1)) ∧
    (∃ t, exec (.subnReg x y) s = .next t ∧ (t.v[regF] = 1 ↔ s.v[y].toNat ≥ s.v[x].toNat) ∧ (t.v[regF] = 0 ∨ t.v[regF] = 1)) ∧
    (∃ t, exec (.shr x y) s = .next t ∧ t.v[regF].toNat = s.v[x].toNat % 2) ∧
    (∃ t, exec (.shl x y) s = .next t ∧ t.v[regF].toNat = s.v[x].toNat / 128)

/-- RND: Vx is the drawn byte AND nn, one byte is drawn per RND, and the next RND draws the next one (R111). The drawn byte
is the model's free value `Config.rnd` (assumption log 3): the statement holds for every value of its counter. -/
def Obligations.RndMasksOneDrawnByte : Prop :=
  ∀ (x : Reg) (nn : Byte) (s : State),
    ∃ t, exec (.rnd x nn) s = .next t ∧ t.v[x] = Config.rnd s.draws &&& nn ∧ t.draws = s.draws + 1 ∧
      t.pc = s.pc + 2 ∧ Frame [x] [.draws] s t

/-! ### Display (spec/43_display.md) -/

/-- CLS darkens every pixel and changes nothing else, VF and GHOST included (section 2, from general knowledge). -/
def Obligations.ClsDarkensEveryPixel : Prop :=
  ∀ s : State, ∃ t, exec .cls s = .next t ∧ (∀ (px : Fin 64) (py : Fin 32), t.disp[py][px] = false) ∧ t.pc = s.pc + 2 ∧
    Frame [] [.disp] s t

/-- The sprite loops of R118 are the closed form of R127: exactly the pixels under an in-bounds 1 bit are inverted, and VF
is 1 iff one of them was lit before. It holds for x = F and y = F, the coordinates being read first (D9), with the most
significant bit leftmost (D10). -/
def Obligations.DrawIsTheClosedForm : Prop :=
  ∀ (x y : Reg) (n : Nibble) (s : State),
    ∃ t, exec (.drw x y n) s = .next t ∧ t.pc = s.pc + 2 ∧ Frame [regF] [.disp] s t ∧
      (∀ (px : Fin 64) (py : Fin 32),
        (SpriteCovers s x y n px py → t.disp[py][px] = !s.disp[py][px]) ∧
        (¬ SpriteCovers s x y n px py → t.disp[py][px] = s.disp[py][px])) ∧
      ((∃ (px : Fin 64) (py : Fin 32), SpriteCovers s x y n px py ∧ s.disp[py][px] = true) → t.v[regF] = 1) ∧
      ((¬ ∃ (px : Fin 64) (py : Fin 32), SpriteCovers s x y n px py ∧ s.disp[py][px] = true) → t.v[regF] = 0)

/-- Drawing the same sprite twice at the same place restores the display (R125), and the second draw collides exactly when
some pixel under an in-bounds 1 bit was dark at first: R125's own clause, "if the sprite has any in-bounds 1-bit", is wrong
of a display on which every such pixel was lit, by R124 and R127 (assumption log 9). The coordinates must not be VF, which
the first draw writes. -/
def Obligations.DrawingTwiceRestoresTheDisplay : Prop :=
  ∀ (x y : Reg) (n : Nibble) (s : State), x ≠ regF → y ≠ regF →
    ∃ t u, exec (.drw x y n) s = .next t ∧ exec (.drw x y n) t = .next u ∧ u.disp = s.disp ∧
      (u.v[regF] = 1 ↔ ∃ (px : Fin 64) (py : Fin 32), SpriteCovers s x y n px py ∧ s.disp[py][px] = false)

/-- The bytes of rows that are not drawn are not read (R121): two states alike but for memory, which agree on the bytes of
the drawn rows, draw the same display and the same VF. -/
def Obligations.DrawReadsOnlyTheDrawnRows : Prop :=
  ∀ (x y : Reg) (n : Nibble) (s : State) (m : Memory),
    (∀ r : Nat, r < n.toNat → s.v[y].toNat % 32 + r < 32 →
      (s.setMem m).memRead (byteAddr s.i r) = s.memRead (byteAddr s.i r)) →
    ∃ t, exec (.drw x y n) s = .next t ∧ exec (.drw x y n) (s.setMem m) = .next (t.setMem m)

/-! ### Index register, timers, memory transfer, key wait (spec/44_index_memory_timers.md) -/

/-- The moves between Vx, I, DT and ST (sections 1, 3 and 4; general knowledge, and D8 for Fx1E: VF is not written and I
wraps at 16 bits). -/
def Obligations.IndexAndTimerMoves : Prop :=
  ∀ (x : Reg) (nnn : Addr) (s : State),
    (∃ t, exec (.ldI nnn) s = .next t ∧ t.i.toNat = nnn.toNat ∧ t.pc = s.pc + 2 ∧ Frame [] [.i] s t) ∧
    (∃ t, exec (.ldVxDt x) s = .next t ∧ t.v[x] = s.dt ∧ t.pc = s.pc + 2 ∧ Frame [x] [] s t) ∧
    (∃ t, exec (.ldDtVx x) s = .next t ∧ t.dt = s.v[x] ∧ t.pc = s.pc + 2 ∧ Frame [] [.dt] s t) ∧
    (∃ t, exec (.ldStVx x) s = .next t ∧ t.st = s.v[x] ∧ t.pc = s.pc + 2 ∧ Frame [] [.st] s t) ∧
    (∃ t, exec (.addIVx x) s = .next t ∧ t.i.toNat = (s.i.toNat + s.v[x].toNat) % 65536 ∧ t.pc = s.pc + 2 ∧
      Frame [] [.i] s t)

/-- R135: LD F, Vx points I at the glyph of Vx's low nibble. -/
def Obligations.LdFPointsAtTheGlyph : Prop :=
  ∀ (x : Reg) (s : State),
    decode (0xF#4 ++ (regBits x ++ 0x29#8)) = .op (.ldFVx x) ∧
    ∃ t, exec (.ldFVx x) s = .next t ∧ t.i.toNat = s.v[x].toNat % 16 * 5 ∧ t.i.toNat ≤ 75 ∧ t.pc = s.pc + 2 ∧
      Frame [] [.i] s t

/-- R131: LD Vx, K stores the least pressed key and advances, or sets WAIT to x with PC unchanged. -/
def Obligations.LdKTakesTheLeastKeyOrBlocks : Prop :=
  ∀ (x : Reg) (s : State),
    decode (0xF#4 ++ (regBits x ++ 0x0A#8)) = .op (.ldVxK x) ∧
    (∀ k : Reg, LeastPressed s k →
      ∃ t, exec (.ldVxK x) s = .next t ∧ t.v[x].toNat = k.val ∧ t.wait = none ∧ t.pc = s.pc + 2 ∧
        Frame [x] [.wait] s t) ∧
    ((∀ k : Reg, s.key[k] = false) →
      ∃ t, exec (.ldVxK x) s = .next t ∧ t.wait = some x ∧ t.pc = s.pc ∧ Frame [] [.wait] s t)

/-- The stores at I (section 5): LD B stores three decimal digits, LD [I] stores V0..Vx; every other byte reads as before
and I is unchanged. With FONT_WRITE = FAULT a store into the font region raises FONT_WRITE instead (D19). -/
def Obligations.StoresWriteTheirBytesAndNoOthers : Prop :=
  ∀ (x : Reg) (s : State), MemoryCanonical s →
    (¬ FontForbids s s.i 3 →
      ∃ t, exec (.ldBVx x) s = .next t ∧ t.pc = s.pc + 2 ∧ Frame [] [.mem] s t ∧
        (t.memRead (byteAddr s.i 0)).toNat = s.v[x].toNat / 100 ∧
        (t.memRead (byteAddr s.i 1)).toNat = s.v[x].toNat / 10 % 10 ∧
        (t.memRead (byteAddr s.i 2)).toNat = s.v[x].toNat % 10 ∧
        ∀ a : Word, (∀ k < 3, memIndex a ≠ memIndex (byteAddr s.i k)) → t.memRead a = s.memRead a) ∧
    (FontForbids s s.i 3 → exec (.ldBVx x) s = .next (s.setFault .fontWrite)) ∧
    (¬ FontForbids s s.i (x.val + 1) →
      ∃ t, exec (.ldMemVx x) s = .next t ∧ t.pc = s.pc + 2 ∧ Frame [] [.mem] s t ∧
        (∀ k : Reg, k ≤ x → t.memRead (byteAddr s.i k.val) = s.v[k]) ∧
        ∀ a : Word, (∀ k ≤ x.val, memIndex a ≠ memIndex (byteAddr s.i k)) → t.memRead a = s.memRead a) ∧
    (FontForbids s s.i (x.val + 1) → exec (.ldMemVx x) s = .next (s.setFault .fontWrite))

/-- R138: LD Vx, [I] loads V0..Vx from I, ..., I+x and changes no other register and not I. -/
def Obligations.LdFromMemoryLoadsUpToVx : Prop :=
  ∀ (x : Reg) (s : State),
    decode (0xF#4 ++ (regBits x ++ 0x65#8)) = .op (.ldVxMem x) ∧
    ∃ t, exec (.ldVxMem x) s = .next t ∧
      (∀ k : Reg, k ≤ x → t.v[k] = Memory.read (initByte s.params) s.mem ((s.i.toNat + k.val) % 4096)) ∧
      (∀ k : Reg, x < k → t.v[k] = s.v[k]) ∧ t.pc = s.pc + 2 ∧ Frame (mayWriteRegs (.ldVxMem x)) [] s t

/-! ### Host operations (spec/60_exceptions.md, spec/70_reset_and_hazards.md) -/

/-- Tick takes one from each timer that is above 0 and changes nothing else, PC included, whatever FAULT and WAIT are
(D23). -/
def Obligations.TickDecaysBothTimers : Prop :=
  ∀ s : State, (hostTick s).dt.toNat = s.dt.toNat - 1 ∧ (hostTick s).st.toNat = s.st.toNat - 1 ∧
    (hostTick s).pc = s.pc ∧ Frame [] [.dt, .st] s (hostTick s)

/-- SetKeys replaces all 16 lines at once and changes nothing else (D29). -/
def Obligations.SetKeysReplacesEveryLine : Prop :=
  ∀ (k : BitVec 16) (s : State), (∀ j : Reg, (hostSetKeys k s).key[j] = k.getLsbD j.val) ∧
    (hostSetKeys k s).pc = s.pc ∧ Frame [] [.key] s (hostSetKeys k s)

/-- Load copies the image to 0x200 on, truncated at 0xE00 bytes; every other byte and all other state stay (D24). -/
def Obligations.LoadCopiesAndTruncates : Prop :=
  ∀ (image : List Byte) (s : State), MemoryCanonical s →
    (∀ (k : Nat) (h : k < image.length), k < 0xE00 →
      (hostLoad image s).memRead (BitVec.ofNat 16 (0x200 + k)) = image[k]) ∧
    (∀ a : Word, (∀ k : Nat, k < image.length → k < 0xE00 → memIndex a ≠ 0x200 + k) →
      (hostLoad image s).memRead a = s.memRead a) ∧
    (hostLoad image s).pc = s.pc ∧ Frame [] [.mem] s (hostLoad image s)

/-- R167: after Reset PC is 0x200, registers, timers, stack and display are cleared, the font is reloaded, and memory from
0x200 on holds the bytes resident just before. -/
def Obligations.ResetClearsAllButTheProgramBytes : Prop :=
  ∀ s : State,
    (hostReset s).pc = 0x200 ∧ (∀ z : Reg, (hostReset s).v[z] = 0) ∧ (hostReset s).i = 0 ∧ (hostReset s).dt = 0 ∧
    (hostReset s).st = 0 ∧ (hostReset s).sp = 0 ∧ (∀ k : Fin 16, (hostReset s).stack[k] = 0) ∧
    (∀ (px : Fin 64) (py : Fin 32), (hostReset s).disp[py][px] = false) ∧
    (∀ k : Fin 80, (hostReset s).memRead (BitVec.ofNat 16 k.val) = s.params.font[k]) ∧
    (∀ a : Word, 0x200 ≤ memIndex a → (hostReset s).memRead a = s.memRead a)

/-- The table of section 14 of spec/10_state.md, row by row and for every font: what Init leaves and what Reset leaves. They
differ in the bytes from 0x200 on only. That FAULT is NONE is the spec's decision D14. -/
def Obligations.InitAndResetGiveTheListedValues : Prop :=
  ∀ s : State,
    (∀ a : Word, 0x200 ≤ memIndex a → (hostInit s).memRead a = 0) ∧
    (∀ a : Word, 0x200 ≤ memIndex a → (hostReset s).memRead a = s.memRead a) ∧
    ∀ t : State, t = hostInit s ∨ t = hostReset s →
      (∀ (a : Word) (h : memIndex a < 80), t.memRead a = s.params.font[memIndex a]) ∧
      (∀ a : Word, 80 ≤ memIndex a → memIndex a < 0x200 → t.memRead a = 0) ∧
      (∀ z : Reg, t.v[z] = 0) ∧ t.i = 0 ∧ t.pc = 0x200 ∧ (∀ k : Fin 16, t.stack[k] = 0) ∧ t.sp = 0 ∧
      t.dt = 0 ∧ t.st = 0 ∧ (∀ j : Reg, t.key[j] = false) ∧
      (∀ (px : Fin 64) (py : Fin 32), t.disp[py][px] = false) ∧
      (∀ (px : Fin 64) (py : Fin 32), t.ghost[py][px] = 0) ∧
      t.paused = false ∧ t.wait = none ∧ t.ckpt = none ∧ t.fault = .none

/-- R159: save then immediately restore yields the same state in every field except the checkpoint slot, and remains
restorable a second time without re-saving. -/
def Obligations.SaveThenRestoreIsTheIdentity : Prop :=
  ∀ s : State,
    (hostRestore (hostSave s)).setCkpt s.ckpt = s ∧ hostRestore (hostRestore (hostSave s)) = hostRestore (hostSave s) ∧
    (hostRestore (hostSave s)).ckpt = some s.snapshot

/-- R158: Restore replaces the live state by the snapshot and keeps the snapshot in the slot and FAULT as it was; with no
snapshot it is a no-op. -/
def Obligations.RestoreReattachesTheSnapshot : Prop :=
  ∀ s : State,
    (s.ckpt = none → hostRestore s = s) ∧
    ∀ c : Snapshot, s.ckpt = some c →
      (hostRestore s).snapshot = c ∧ (hostRestore s).ckpt = some c ∧ (hostRestore s).fault = s.fault

/-- After Save, whatever the host does without another Save, Init or Reset, Restore brings back every saved field, and the
snapshot stays (vector S5). -/
def Obligations.RestoreRewindsAnyRun : Prop :=
  ∀ (ops : List HostOp) (s t : State),
    (∀ op ∈ ops, op ≠ .save ∧ op ≠ .init ∧ op ≠ .reset) → HostOp.applyAll ops (hostSave s) = .next t →
      (hostRestore t).snapshot = s.snapshot ∧ (hostRestore t).ckpt = some s.snapshot

/-- The stopping idiom (R171, D30): a Step of a jump to its own address changes nothing, however often it is repeated. -/
def Obligations.SelfJumpChangesNothing : Prop :=
  ∀ (s : State) (nnn : Addr), Running s → s.fetchDecode = .op (.jp nnn) → s.pc.toNat = nnn.toNat →
    ∀ n : Nat, Host.Core.run core n s = .next s

/-- Save overwrites the checkpoint slot with a copy of every field of the live state but the slot itself and FAULT, and
changes nothing else (section 5 of spec/60_exceptions.md). That FAULT is not captured is the spec's decision D14. -/
def Obligations.SaveWritesOnlyTheCheckpointSlot : Prop :=
  ∀ s : State,
    (hostSave s).pc = s.pc ∧ Frame [] [.ckpt] s (hostSave s) ∧
    ∃ c : Snapshot, (hostSave s).ckpt = some c ∧ c.mem = s.mem ∧ c.v = s.v ∧ c.i = s.i ∧ c.pc = s.pc ∧
      c.stack = s.stack ∧ c.sp = s.sp ∧ c.dt = s.dt ∧ c.st = s.st ∧ c.key = s.key ∧ c.disp = s.disp ∧
      c.ghost = s.ghost ∧ c.paused = s.paused ∧ c.wait = s.wait
end

