-- ==== Sys2Proof/Laws/Decode.lean ====
section
/-! SUPPORT. The decoder's fields and the encoder's words as numbers, and each field of each word format: what a proof
about decoding cites instead of bit arithmetic. -/

namespace Sys2Proof

/-- Concatenation as a number. -/
theorem append_toNat {n m : Nat} (a : BitVec n) (b : BitVec m) : (a ++ b).toNat = a.toNat * 2 ^ m + b.toNat := by
  rw [BitVec.toNat_append, Nat.shiftLeft_eq, Nat.mul_comm, ← Nat.two_pow_add_eq_or_of_lt b.isLt]

@[simp] theorem regBits_toNat (x : Reg) : (regBits x).toNat = x.val := rfl

@[simp] theorem regOfBits_val (b : Nibble) : (regOfBits b).val = b.toNat := rfl

theorem wordNnn_toNat (f : Nibble) (nnn : Addr) : (wordNnn f nnn).toNat = f.toNat * 4096 + nnn.toNat := by
  unfold wordNnn
  rw [append_toNat]
  rfl

theorem wordXnn_toNat (f : Nibble) (x : Reg) (nn : Byte) :
    (wordXnn f x nn).toNat = f.toNat * 4096 + x.val * 256 + nn.toNat := by
  unfold wordXnn
  rw [append_toNat, append_toNat, regBits_toNat]
  omega

theorem wordXyn_toNat (f : Nibble) (x y : Reg) (n : Nibble) :
    (wordXyn f x y n).toNat = f.toNat * 4096 + x.val * 256 + y.val * 16 + n.toNat := by
  unfold wordXyn
  rw [append_toNat, append_toNat, append_toNat, regBits_toNat, regBits_toNat]
  omega

theorem wordOfBytes_toNat (hi lo : Byte) : (wordOfBytes hi lo).toNat = hi.toNat * 256 + lo.toNat := by
  unfold wordOfBytes
  rw [append_toNat]
  rfl

/-! ### The fields of a word, as numbers -/

theorem fieldFamily_toNat (w : Word) : (fieldFamily w).toNat = w.toNat / 4096 := by
  have := w.isLt
  simp only [fieldFamily, BitVec.extractLsb'_toNat, Nat.shiftRight_eq_div_pow]
  omega

theorem fieldX_val (w : Word) : (fieldX w).val = w.toNat / 256 % 16 := by
  simp only [fieldX, regOfBits_val, BitVec.extractLsb'_toNat, Nat.shiftRight_eq_div_pow]

theorem fieldY_val (w : Word) : (fieldY w).val = w.toNat / 16 % 16 := by
  simp only [fieldY, regOfBits_val, BitVec.extractLsb'_toNat, Nat.shiftRight_eq_div_pow]

theorem fieldN_toNat (w : Word) : (fieldN w).toNat = w.toNat % 16 := by
  simp only [fieldN, BitVec.extractLsb'_toNat, Nat.shiftRight_zero]

theorem fieldNn_toNat (w : Word) : (fieldNn w).toNat = w.toNat % 256 := by
  simp only [fieldNn, BitVec.extractLsb'_toNat, Nat.shiftRight_zero]

theorem fieldNnn_toNat (w : Word) : (fieldNnn w).toNat = w.toNat % 4096 := by
  simp only [fieldNnn, BitVec.extractLsb'_toNat, Nat.shiftRight_zero]

/-! ### The fields of each word format -/

@[simp] theorem fieldFamily_wordNnn (f : Nibble) (nnn : Addr) : fieldFamily (wordNnn f nnn) = f := by
  apply BitVec.eq_of_toNat_eq
  rw [fieldFamily_toNat, wordNnn_toNat]
  omega

@[simp] theorem fieldNnn_wordNnn (f : Nibble) (nnn : Addr) : fieldNnn (wordNnn f nnn) = nnn := by
  apply BitVec.eq_of_toNat_eq
  rw [fieldNnn_toNat, wordNnn_toNat]
  omega

@[simp] theorem fieldFamily_wordXnn (f : Nibble) (x : Reg) (nn : Byte) : fieldFamily (wordXnn f x nn) = f := by
  apply BitVec.eq_of_toNat_eq
  rw [fieldFamily_toNat, wordXnn_toNat]
  omega

@[simp] theorem fieldX_wordXnn (f : Nibble) (x : Reg) (nn : Byte) : fieldX (wordXnn f x nn) = x := by
  apply Fin.ext
  rw [fieldX_val, wordXnn_toNat]
  omega

@[simp] theorem fieldNn_wordXnn (f : Nibble) (x : Reg) (nn : Byte) : fieldNn (wordXnn f x nn) = nn := by
  apply BitVec.eq_of_toNat_eq
  rw [fieldNn_toNat, wordXnn_toNat]
  omega

@[simp] theorem fieldFamily_wordXyn (f : Nibble) (x y : Reg) (n : Nibble) : fieldFamily (wordXyn f x y n) = f := by
  apply BitVec.eq_of_toNat_eq
  rw [fieldFamily_toNat, wordXyn_toNat]
  omega

@[simp] theorem fieldX_wordXyn (f : Nibble) (x y : Reg) (n : Nibble) : fieldX (wordXyn f x y n) = x := by
  apply Fin.ext
  rw [fieldX_val, wordXyn_toNat]
  omega

@[simp] theorem fieldY_wordXyn (f : Nibble) (x y : Reg) (n : Nibble) : fieldY (wordXyn f x y n) = y := by
  apply Fin.ext
  rw [fieldY_val, wordXyn_toNat]
  omega

@[simp] theorem fieldN_wordXyn (f : Nibble) (x y : Reg) (n : Nibble) : fieldN (wordXyn f x y n) = n := by
  apply BitVec.eq_of_toNat_eq
  rw [fieldN_toNat, wordXyn_toNat]
  omega

/-- A word is its family and its low 12 bits; and so on for the other formats. -/
theorem wordNnn_fields (w : Word) : wordNnn (fieldFamily w) (fieldNnn w) = w := by
  apply BitVec.eq_of_toNat_eq
  rw [wordNnn_toNat, fieldFamily_toNat, fieldNnn_toNat]
  omega

theorem wordXnn_fields (w : Word) : wordXnn (fieldFamily w) (fieldX w) (fieldNn w) = w := by
  have := w.isLt
  apply BitVec.eq_of_toNat_eq
  rw [wordXnn_toNat, fieldFamily_toNat, fieldX_val, fieldNn_toNat]
  omega

theorem wordXyn_fields (w : Word) : wordXyn (fieldFamily w) (fieldX w) (fieldY w) (fieldN w) = w := by
  have := w.isLt
  apply BitVec.eq_of_toNat_eq
  rw [wordXyn_toNat, fieldFamily_toNat, fieldX_val, fieldY_val, fieldN_toNat]
  omega

/-- The two bytes a word is stored as give the word back. -/
@[simp] theorem wordOfBytes_hi_lo (w : Word) : wordOfBytes (wordHi w) (wordLo w) = w := by
  have := w.isLt
  apply BitVec.eq_of_toNat_eq
  rw [wordOfBytes_toNat]
  simp only [wordHi, wordLo, BitVec.extractLsb'_toNat, Nat.shiftRight_eq_div_pow]
  omega

/-- The host's numbering of a one-word row is the word itself. -/
@[simp] theorem tableWord_toNat (w : Word) : tableWord 16 w.toNat = w := by
  apply BitVec.eq_of_toNat_eq
  simp only [tableWord, BitVec.toNat_ofNat]
  omega

end Sys2Proof
end

