-- ==== Sys2Proof/Laws/Display.lean ====
section
/-! SUPPORT. What the draw/collision unit does, pixel by pixel: the sprite loops of Machine/Display.lean against the set of
pixels under an in-bounds 1 bit. -/

namespace Sys2Proof.Machine

open Sys2Proof

theorem Display.ext {d e : Display} (h : ∀ (x : Fin 64) (y : Fin 32), d.pixel x y = e.pixel x y) : d = e := by
  apply Vector.ext
  intro y hy
  apply Vector.ext
  intro x hx
  exact h ⟨x, hx⟩ ⟨y, hy⟩

@[simp] theorem Display.pixel_toggle (d : Display) (x px : Fin 64) (y py : Fin 32) :
    (d.toggle x y).pixel px py = if px = x ∧ py = y then !d.pixel px py else d.pixel px py := by
  simp only [Display.toggle, Display.pixel, Fin.getElem_fin, Vector.getElem_set]
  by_cases hy : py = y
  · subst hy
    by_cases hx : px = x
    · subst hx
      simp
    · have : x.val ≠ px.val := fun h => hx (Fin.ext h.symm)
      simp [hx, this]
  · have : y.val ≠ py.val := fun h => hy (Fin.ext h.symm)
    simp [hy, this]

@[simp] theorem Display.pixel_dark (px : Fin 64) (py : Fin 32) : Display.dark.pixel px py = false := by
  simp [Display.dark, Display.pixel]

theorem DrawAcc.plot_pixel (acc : DrawAcc) (bit : Bool) (x px : Fin 64) (y py : Fin 32) :
    (acc.plot bit x y).disp.pixel px py =
      if bit = true ∧ px = x ∧ py = y then !acc.disp.pixel px py else acc.disp.pixel px py := by
  cases bit <;> simp [DrawAcc.plot]

theorem DrawAcc.plot_collision (acc : DrawAcc) (bit : Bool) (x : Fin 64) (y : Fin 32) :
    (acc.plot bit x y).collision = true ↔ acc.collision = true ∨ (bit = true ∧ acc.disp.pixel x y = true) := by
  cases bit <;> simp [DrawAcc.plot]

/-- Columns c to c + k - 1 of a sprite row drawn from column x0 cover column px. -/
def RowCovers (row : Byte) (x0 c k : Nat) (px : Fin 64) : Prop :=
  x0 + c ≤ px.val ∧ px.val < x0 + c + k ∧ spriteBit row (px.val - x0) = true

/-- What drawing columns c to c + k - 1 of one sprite row does. -/
theorem drawRow_spec (row : Byte) (x0 : Fin 64) (y : Fin 32) (k : Nat) :
    ∀ (c : Nat) (acc : DrawAcc),
      (∀ (px : Fin 64) (py : Fin 32),
        (py = y → RowCovers row x0 c k px →
          (drawRow row x0 y (List.range' c k) acc).disp.pixel px py = !acc.disp.pixel px py) ∧
        (¬ (py = y ∧ RowCovers row x0 c k px) →
          (drawRow row x0 y (List.range' c k) acc).disp.pixel px py = acc.disp.pixel px py)) ∧
      ((drawRow row x0 y (List.range' c k) acc).collision = true ↔
        acc.collision = true ∨ ∃ px, RowCovers row x0 c k px ∧ acc.disp.pixel px y = true) := by
  induction k with
  | zero =>
    intro c acc
    have hno : ∀ px, ¬ RowCovers row x0 c 0 px := fun px h => by
      have := h.1
      have := h.2.1
      omega
    simp [drawRow, hno]
  | succ k ih =>
    intro c acc
    rw [List.range'_succ]
    unfold drawRow
    by_cases hin : x0.val + c < 64
    · rw [dif_pos hin]
      obtain ⟨hpix, hcol⟩ := ih (c + 1) (acc.plot (spriteBit row c) ⟨x0.val + c, hin⟩ y)
      -- the first column covers its own pixel, the others cover pixels to its right
      have hfirst : ∀ px : Fin 64, RowCovers row x0 c (k + 1) px ↔
          (px = ⟨x0.val + c, hin⟩ ∧ spriteBit row c = true) ∨ RowCovers row x0 (c + 1) k px := by
        intro px
        unfold RowCovers
        constructor
        · rintro ⟨h1, h2, h3⟩
          by_cases he : px.val = x0.val + c
          · refine .inl ⟨Fin.ext he, ?_⟩
            rwa [he, Nat.add_sub_cancel_left] at h3
          · exact .inr ⟨by omega, by omega, h3⟩
        · rintro (⟨rfl, h⟩ | ⟨h1, h2, h3⟩)
          · exact ⟨Nat.le_refl _, by simp, by simpa using h⟩
          · exact ⟨by omega, by omega, h3⟩
      have hdisj : ∀ px : Fin 64, RowCovers row x0 (c + 1) k px → px ≠ ⟨x0.val + c, hin⟩ := by
        rintro px ⟨h1, -, -⟩ rfl
        simp only at h1
        omega
      refine ⟨fun px py => ⟨fun hy hc => ?_, fun hn => ?_⟩, ?_⟩
      · rcases (hfirst px).mp hc with ⟨hp, hb⟩ | hr
        · rw [(hpix px py).2 (fun h => hdisj px h.2 hp), DrawAcc.plot_pixel, if_pos ⟨hb, hp, hy⟩]
        · rw [(hpix px py).1 hy hr, DrawAcc.plot_pixel, if_neg (fun h => hdisj px hr h.2.1)]
      · rw [(hpix px py).2 (fun h => hn ⟨h.1, (hfirst px).mpr (.inr h.2)⟩), DrawAcc.plot_pixel,
          if_neg (fun h => hn ⟨h.2.2, (hfirst px).mpr (.inl ⟨h.2.1, h.1⟩)⟩)]
      · rw [hcol, DrawAcc.plot_collision, or_assoc]
        refine or_congr_right ⟨?_, ?_⟩
        · rintro (⟨hb, hp⟩ | ⟨px, hr, hp⟩)
          · exact ⟨_, (hfirst _).mpr (.inl ⟨rfl, hb⟩), hp⟩
          · refine ⟨px, (hfirst px).mpr (.inr hr), ?_⟩
            rwa [DrawAcc.plot_pixel, if_neg (fun h => hdisj px hr h.2.1)] at hp
        · rintro ⟨px, hc, hp⟩
          rcases (hfirst px).mp hc with ⟨rfl, hb⟩ | hr
          · exact .inl ⟨hb, hp⟩
          · refine .inr ⟨px, hr, ?_⟩
            rwa [DrawAcc.plot_pixel, if_neg (fun h => hdisj px hr h.2.1)]
    · rw [dif_neg hin]
      have hno : ∀ px, ¬ RowCovers row x0 c (k + 1) px := fun px h => by
        have := h.1
        have := px.isLt
        omega
      simp [hno]

/-- Rows r, r + 1, ... of a sprite drawn from (x0, y0) cover pixel (px, py). -/
def RowsCover (x0 y0 r : Nat) (rows : List Byte) (px : Fin 64) (py : Fin 32) : Prop :=
  y0 + r ≤ py.val ∧ ∃ h : py.val - (y0 + r) < rows.length, RowCovers rows[py.val - (y0 + r)] x0 0 8 px

/-- What drawing the rows of a sprite from row r on does. -/
theorem drawRows_spec (x0 : Fin 64) (y0 : Fin 32) (rows : List Byte) :
    ∀ (r : Nat) (acc : DrawAcc),
      (∀ (px : Fin 64) (py : Fin 32),
        (RowsCover x0 y0 r rows px py → (drawRows x0 y0 r rows acc).disp.pixel px py = !acc.disp.pixel px py) ∧
        (¬ RowsCover x0 y0 r rows px py → (drawRows x0 y0 r rows acc).disp.pixel px py = acc.disp.pixel px py)) ∧
      ((drawRows x0 y0 r rows acc).collision = true ↔
        acc.collision = true ∨ ∃ px py, RowsCover x0 y0 r rows px py ∧ acc.disp.pixel px py = true) := by
  induction rows with
  | nil =>
    intro r acc
    have hno : ∀ px py, ¬ RowsCover x0 y0 r [] px py := fun px py h => by
      obtain ⟨-, h, -⟩ := h
      simp at h
    simp [drawRows, hno]
  | cons row rows ih =>
    intro r acc
    unfold drawRows
    by_cases hin : y0.val + r < 32
    · rw [dif_pos hin, List.range_eq_range']
      obtain ⟨hrow, hrowc⟩ := drawRow_spec row x0 ⟨y0.val + r, hin⟩ 8 0 acc
      obtain ⟨hpix, hcol⟩ := ih (r + 1) (drawRow row x0 ⟨y0.val + r, hin⟩ (List.range' 0 8) acc)
      -- the first row covers pixels of its own display row, the others rows below
      have hfirst : ∀ (px : Fin 64) (py : Fin 32), RowsCover x0 y0 r (row :: rows) px py ↔
          (py = ⟨y0.val + r, hin⟩ ∧ RowCovers row x0 0 8 px) ∨ RowsCover x0 y0 (r + 1) rows px py := by
        intro px py
        unfold RowsCover
        constructor
        · rintro ⟨h1, h2, h3⟩
          by_cases he : py.val = y0.val + r
          · refine .inl ⟨Fin.ext he, ?_⟩
            simpa [he] using h3
          · have hidx : py.val - (y0.val + r) = (py.val - (y0.val + (r + 1))) + 1 := by omega
            refine .inr ⟨by omega, by simp only [List.length_cons] at h2; omega, ?_⟩
            simpa only [hidx, List.getElem_cons_succ] using h3
        · rintro (⟨rfl, h⟩ | ⟨h1, h2, h3⟩)
          · exact ⟨Nat.le_refl _, by simp, by simpa using h⟩
          · have hidx : py.val - (y0.val + r) = (py.val - (y0.val + (r + 1))) + 1 := by omega
            refine ⟨by omega, by simp only [List.length_cons]; omega, ?_⟩
            simpa only [hidx, List.getElem_cons_succ] using h3
      have hdisj : ∀ (px : Fin 64) (py : Fin 32), RowsCover x0 y0 (r + 1) rows px py → py ≠ ⟨y0.val + r, hin⟩ := by
        rintro px py ⟨h1, -⟩ rfl
        simp only at h1
        omega
      refine ⟨fun px py => ⟨fun hc => ?_, fun hn => ?_⟩, ?_⟩
      · rcases (hfirst px py).mp hc with ⟨hy, hr⟩ | hr
        · rw [(hpix px py).2 (fun h => hdisj px py h hy), (hrow px py).1 hy hr]
        · rw [(hpix px py).1 hr, (hrow px py).2 (fun h => hdisj px py hr h.1)]
      · rw [(hpix px py).2 (fun h => hn ((hfirst px py).mpr (.inr h))),
          (hrow px py).2 (fun h => hn ((hfirst px py).mpr (.inl h)))]
      · rw [hcol, hrowc, or_assoc]
        refine or_congr_right ⟨?_, ?_⟩
        · rintro (⟨px, hr, hp⟩ | ⟨px, py, hr, hp⟩)
          · exact ⟨px, _, (hfirst px _).mpr (.inl ⟨rfl, hr⟩), hp⟩
          · refine ⟨px, py, (hfirst px py).mpr (.inr hr), ?_⟩
            rwa [(hrow px py).2 (fun h => hdisj px py hr h.1)] at hp
        · rintro ⟨px, py, hc, hp⟩
          rcases (hfirst px py).mp hc with ⟨rfl, hr⟩ | hr
          · exact .inl ⟨px, hr, hp⟩
          · refine .inr ⟨px, py, hr, ?_⟩
            rwa [(hrow px py).2 (fun h => hdisj px py hr h.1)]
    · rw [dif_neg hin]
      have hno : ∀ px py, ¬ RowsCover x0 y0 r (row :: rows) px py := fun px py h => by
        have := h.1
        have := py.isLt
        omega
      simp [hno]

/-- The unit (R116): a covered pixel is inverted, any other stays. -/
theorem draw_pixel (d : Display) (x0 : Fin 64) (y0 : Fin 32) (rows : List Byte) (px : Fin 64) (py : Fin 32) :
    (RowsCover x0 y0 0 rows px py → (draw d x0 y0 rows).disp.pixel px py = !d.pixel px py) ∧
    (¬ RowsCover x0 y0 0 rows px py → (draw d x0 y0 rows).disp.pixel px py = d.pixel px py) :=
  (drawRows_spec x0 y0 rows 0 ⟨d, false⟩).1 px py

/-- The unit (R116): it collides exactly when a covered pixel was lit. -/
theorem draw_collision (d : Display) (x0 : Fin 64) (y0 : Fin 32) (rows : List Byte) :
    (draw d x0 y0 rows).collision = true ↔ ∃ px py, RowsCover x0 y0 0 rows px py ∧ d.pixel px py = true := by
  simpa [draw] using (drawRows_spec x0 y0 rows 0 ⟨d, false⟩).2

end Sys2Proof.Machine
end

