-- ==== Sys2Proof/Laws/State.lean ====
section
/-! SUPPORT. One lemma per field per update: what each setter of Machine/Ops.lean makes of each field of State, so that no
later proof unfolds a record update. -/

namespace Sys2Proof.Machine

open Sys2Proof

variable (s : State)

/-! `setV` -/

@[simp] theorem State.setV_mem (x : Reg) (b : Byte) : (s.setV x b).mem = s.mem := rfl
@[simp] theorem State.setV_v (x : Reg) (b : Byte) : (s.setV x b).v = s.v.set x b := rfl
@[simp] theorem State.setV_i (x : Reg) (b : Byte) : (s.setV x b).i = s.i := rfl
@[simp] theorem State.setV_pc (x : Reg) (b : Byte) : (s.setV x b).pc = s.pc := rfl
@[simp] theorem State.setV_stack (x : Reg) (b : Byte) : (s.setV x b).stack = s.stack := rfl
@[simp] theorem State.setV_sp (x : Reg) (b : Byte) : (s.setV x b).sp = s.sp := rfl
@[simp] theorem State.setV_dt (x : Reg) (b : Byte) : (s.setV x b).dt = s.dt := rfl
@[simp] theorem State.setV_st (x : Reg) (b : Byte) : (s.setV x b).st = s.st := rfl
@[simp] theorem State.setV_key (x : Reg) (b : Byte) : (s.setV x b).key = s.key := rfl
@[simp] theorem State.setV_disp (x : Reg) (b : Byte) : (s.setV x b).disp = s.disp := rfl
@[simp] theorem State.setV_ghost (x : Reg) (b : Byte) : (s.setV x b).ghost = s.ghost := rfl
@[simp] theorem State.setV_paused (x : Reg) (b : Byte) : (s.setV x b).paused = s.paused := rfl
@[simp] theorem State.setV_wait (x : Reg) (b : Byte) : (s.setV x b).wait = s.wait := rfl
@[simp] theorem State.setV_ckpt (x : Reg) (b : Byte) : (s.setV x b).ckpt = s.ckpt := rfl
@[simp] theorem State.setV_fault (x : Reg) (b : Byte) : (s.setV x b).fault = s.fault := rfl
@[simp] theorem State.setV_params (x : Reg) (b : Byte) : (s.setV x b).params = s.params := rfl
@[simp] theorem State.setV_draws (x : Reg) (b : Byte) : (s.setV x b).draws = s.draws := rfl

/-! `setRegs` -/

@[simp] theorem State.setRegs_mem (r : Vector Byte 16) : (s.setRegs r).mem = s.mem := rfl
@[simp] theorem State.setRegs_v (r : Vector Byte 16) : (s.setRegs r).v = r := rfl
@[simp] theorem State.setRegs_i (r : Vector Byte 16) : (s.setRegs r).i = s.i := rfl
@[simp] theorem State.setRegs_pc (r : Vector Byte 16) : (s.setRegs r).pc = s.pc := rfl
@[simp] theorem State.setRegs_stack (r : Vector Byte 16) : (s.setRegs r).stack = s.stack := rfl
@[simp] theorem State.setRegs_sp (r : Vector Byte 16) : (s.setRegs r).sp = s.sp := rfl
@[simp] theorem State.setRegs_dt (r : Vector Byte 16) : (s.setRegs r).dt = s.dt := rfl
@[simp] theorem State.setRegs_st (r : Vector Byte 16) : (s.setRegs r).st = s.st := rfl
@[simp] theorem State.setRegs_key (r : Vector Byte 16) : (s.setRegs r).key = s.key := rfl
@[simp] theorem State.setRegs_disp (r : Vector Byte 16) : (s.setRegs r).disp = s.disp := rfl
@[simp] theorem State.setRegs_ghost (r : Vector Byte 16) : (s.setRegs r).ghost = s.ghost := rfl
@[simp] theorem State.setRegs_paused (r : Vector Byte 16) : (s.setRegs r).paused = s.paused := rfl
@[simp] theorem State.setRegs_wait (r : Vector Byte 16) : (s.setRegs r).wait = s.wait := rfl
@[simp] theorem State.setRegs_ckpt (r : Vector Byte 16) : (s.setRegs r).ckpt = s.ckpt := rfl
@[simp] theorem State.setRegs_fault (r : Vector Byte 16) : (s.setRegs r).fault = s.fault := rfl
@[simp] theorem State.setRegs_params (r : Vector Byte 16) : (s.setRegs r).params = s.params := rfl
@[simp] theorem State.setRegs_draws (r : Vector Byte 16) : (s.setRegs r).draws = s.draws := rfl

/-! `setI` -/

@[simp] theorem State.setI_mem (a : Word) : (s.setI a).mem = s.mem := rfl
@[simp] theorem State.setI_v (a : Word) : (s.setI a).v = s.v := rfl
@[simp] theorem State.setI_i (a : Word) : (s.setI a).i = a := rfl
@[simp] theorem State.setI_pc (a : Word) : (s.setI a).pc = s.pc := rfl
@[simp] theorem State.setI_stack (a : Word) : (s.setI a).stack = s.stack := rfl
@[simp] theorem State.setI_sp (a : Word) : (s.setI a).sp = s.sp := rfl
@[simp] theorem State.setI_dt (a : Word) : (s.setI a).dt = s.dt := rfl
@[simp] theorem State.setI_st (a : Word) : (s.setI a).st = s.st := rfl
@[simp] theorem State.setI_key (a : Word) : (s.setI a).key = s.key := rfl
@[simp] theorem State.setI_disp (a : Word) : (s.setI a).disp = s.disp := rfl
@[simp] theorem State.setI_ghost (a : Word) : (s.setI a).ghost = s.ghost := rfl
@[simp] theorem State.setI_paused (a : Word) : (s.setI a).paused = s.paused := rfl
@[simp] theorem State.setI_wait (a : Word) : (s.setI a).wait = s.wait := rfl
@[simp] theorem State.setI_ckpt (a : Word) : (s.setI a).ckpt = s.ckpt := rfl
@[simp] theorem State.setI_fault (a : Word) : (s.setI a).fault = s.fault := rfl
@[simp] theorem State.setI_params (a : Word) : (s.setI a).params = s.params := rfl
@[simp] theorem State.setI_draws (a : Word) : (s.setI a).draws = s.draws := rfl

/-! `setPc` -/

@[simp] theorem State.setPc_mem (a : Word) : (s.setPc a).mem = s.mem := rfl
@[simp] theorem State.setPc_v (a : Word) : (s.setPc a).v = s.v := rfl
@[simp] theorem State.setPc_i (a : Word) : (s.setPc a).i = s.i := rfl
@[simp] theorem State.setPc_pc (a : Word) : (s.setPc a).pc = a := rfl
@[simp] theorem State.setPc_stack (a : Word) : (s.setPc a).stack = s.stack := rfl
@[simp] theorem State.setPc_sp (a : Word) : (s.setPc a).sp = s.sp := rfl
@[simp] theorem State.setPc_dt (a : Word) : (s.setPc a).dt = s.dt := rfl
@[simp] theorem State.setPc_st (a : Word) : (s.setPc a).st = s.st := rfl
@[simp] theorem State.setPc_key (a : Word) : (s.setPc a).key = s.key := rfl
@[simp] theorem State.setPc_disp (a : Word) : (s.setPc a).disp = s.disp := rfl
@[simp] theorem State.setPc_ghost (a : Word) : (s.setPc a).ghost = s.ghost := rfl
@[simp] theorem State.setPc_paused (a : Word) : (s.setPc a).paused = s.paused := rfl
@[simp] theorem State.setPc_wait (a : Word) : (s.setPc a).wait = s.wait := rfl
@[simp] theorem State.setPc_ckpt (a : Word) : (s.setPc a).ckpt = s.ckpt := rfl
@[simp] theorem State.setPc_fault (a : Word) : (s.setPc a).fault = s.fault := rfl
@[simp] theorem State.setPc_params (a : Word) : (s.setPc a).params = s.params := rfl
@[simp] theorem State.setPc_draws (a : Word) : (s.setPc a).draws = s.draws := rfl

/-! `setSlot` -/

@[simp] theorem State.setSlot_mem (k : Fin 16) (a : Word) : (s.setSlot k a).mem = s.mem := rfl
@[simp] theorem State.setSlot_v (k : Fin 16) (a : Word) : (s.setSlot k a).v = s.v := rfl
@[simp] theorem State.setSlot_i (k : Fin 16) (a : Word) : (s.setSlot k a).i = s.i := rfl
@[simp] theorem State.setSlot_pc (k : Fin 16) (a : Word) : (s.setSlot k a).pc = s.pc := rfl
@[simp] theorem State.setSlot_stack (k : Fin 16) (a : Word) : (s.setSlot k a).stack = s.stack.set k a := rfl
@[simp] theorem State.setSlot_sp (k : Fin 16) (a : Word) : (s.setSlot k a).sp = s.sp := rfl
@[simp] theorem State.setSlot_dt (k : Fin 16) (a : Word) : (s.setSlot k a).dt = s.dt := rfl
@[simp] theorem State.setSlot_st (k : Fin 16) (a : Word) : (s.setSlot k a).st = s.st := rfl
@[simp] theorem State.setSlot_key (k : Fin 16) (a : Word) : (s.setSlot k a).key = s.key := rfl
@[simp] theorem State.setSlot_disp (k : Fin 16) (a : Word) : (s.setSlot k a).disp = s.disp := rfl
@[simp] theorem State.setSlot_ghost (k : Fin 16) (a : Word) : (s.setSlot k a).ghost = s.ghost := rfl
@[simp] theorem State.setSlot_paused (k : Fin 16) (a : Word) : (s.setSlot k a).paused = s.paused := rfl
@[simp] theorem State.setSlot_wait (k : Fin 16) (a : Word) : (s.setSlot k a).wait = s.wait := rfl
@[simp] theorem State.setSlot_ckpt (k : Fin 16) (a : Word) : (s.setSlot k a).ckpt = s.ckpt := rfl
@[simp] theorem State.setSlot_fault (k : Fin 16) (a : Word) : (s.setSlot k a).fault = s.fault := rfl
@[simp] theorem State.setSlot_params (k : Fin 16) (a : Word) : (s.setSlot k a).params = s.params := rfl
@[simp] theorem State.setSlot_draws (k : Fin 16) (a : Word) : (s.setSlot k a).draws = s.draws := rfl

/-! `setSp` -/

@[simp] theorem State.setSp_mem (k : Fin 17) : (s.setSp k).mem = s.mem := rfl
@[simp] theorem State.setSp_v (k : Fin 17) : (s.setSp k).v = s.v := rfl
@[simp] theorem State.setSp_i (k : Fin 17) : (s.setSp k).i = s.i := rfl
@[simp] theorem State.setSp_pc (k : Fin 17) : (s.setSp k).pc = s.pc := rfl
@[simp] theorem State.setSp_stack (k : Fin 17) : (s.setSp k).stack = s.stack := rfl
@[simp] theorem State.setSp_sp (k : Fin 17) : (s.setSp k).sp = k := rfl
@[simp] theorem State.setSp_dt (k : Fin 17) : (s.setSp k).dt = s.dt := rfl
@[simp] theorem State.setSp_st (k : Fin 17) : (s.setSp k).st = s.st := rfl
@[simp] theorem State.setSp_key (k : Fin 17) : (s.setSp k).key = s.key := rfl
@[simp] theorem State.setSp_disp (k : Fin 17) : (s.setSp k).disp = s.disp := rfl
@[simp] theorem State.setSp_ghost (k : Fin 17) : (s.setSp k).ghost = s.ghost := rfl
@[simp] theorem State.setSp_paused (k : Fin 17) : (s.setSp k).paused = s.paused := rfl
@[simp] theorem State.setSp_wait (k : Fin 17) : (s.setSp k).wait = s.wait := rfl
@[simp] theorem State.setSp_ckpt (k : Fin 17) : (s.setSp k).ckpt = s.ckpt := rfl
@[simp] theorem State.setSp_fault (k : Fin 17) : (s.setSp k).fault = s.fault := rfl
@[simp] theorem State.setSp_params (k : Fin 17) : (s.setSp k).params = s.params := rfl
@[simp] theorem State.setSp_draws (k : Fin 17) : (s.setSp k).draws = s.draws := rfl

/-! `setDt` -/

@[simp] theorem State.setDt_mem (b : Byte) : (s.setDt b).mem = s.mem := rfl
@[simp] theorem State.setDt_v (b : Byte) : (s.setDt b).v = s.v := rfl
@[simp] theorem State.setDt_i (b : Byte) : (s.setDt b).i = s.i := rfl
@[simp] theorem State.setDt_pc (b : Byte) : (s.setDt b).pc = s.pc := rfl
@[simp] theorem State.setDt_stack (b : Byte) : (s.setDt b).stack = s.stack := rfl
@[simp] theorem State.setDt_sp (b : Byte) : (s.setDt b).sp = s.sp := rfl
@[simp] theorem State.setDt_dt (b : Byte) : (s.setDt b).dt = b := rfl
@[simp] theorem State.setDt_st (b : Byte) : (s.setDt b).st = s.st := rfl
@[simp] theorem State.setDt_key (b : Byte) : (s.setDt b).key = s.key := rfl
@[simp] theorem State.setDt_disp (b : Byte) : (s.setDt b).disp = s.disp := rfl
@[simp] theorem State.setDt_ghost (b : Byte) : (s.setDt b).ghost = s.ghost := rfl
@[simp] theorem State.setDt_paused (b : Byte) : (s.setDt b).paused = s.paused := rfl
@[simp] theorem State.setDt_wait (b : Byte) : (s.setDt b).wait = s.wait := rfl
@[simp] theorem State.setDt_ckpt (b : Byte) : (s.setDt b).ckpt = s.ckpt := rfl
@[simp] theorem State.setDt_fault (b : Byte) : (s.setDt b).fault = s.fault := rfl
@[simp] theorem State.setDt_params (b : Byte) : (s.setDt b).params = s.params := rfl
@[simp] theorem State.setDt_draws (b : Byte) : (s.setDt b).draws = s.draws := rfl

/-! `setSt` -/

@[simp] theorem State.setSt_mem (b : Byte) : (s.setSt b).mem = s.mem := rfl
@[simp] theorem State.setSt_v (b : Byte) : (s.setSt b).v = s.v := rfl
@[simp] theorem State.setSt_i (b : Byte) : (s.setSt b).i = s.i := rfl
@[simp] theorem State.setSt_pc (b : Byte) : (s.setSt b).pc = s.pc := rfl
@[simp] theorem State.setSt_stack (b : Byte) : (s.setSt b).stack = s.stack := rfl
@[simp] theorem State.setSt_sp (b : Byte) : (s.setSt b).sp = s.sp := rfl
@[simp] theorem State.setSt_dt (b : Byte) : (s.setSt b).dt = s.dt := rfl
@[simp] theorem State.setSt_st (b : Byte) : (s.setSt b).st = b := rfl
@[simp] theorem State.setSt_key (b : Byte) : (s.setSt b).key = s.key := rfl
@[simp] theorem State.setSt_disp (b : Byte) : (s.setSt b).disp = s.disp := rfl
@[simp] theorem State.setSt_ghost (b : Byte) : (s.setSt b).ghost = s.ghost := rfl
@[simp] theorem State.setSt_paused (b : Byte) : (s.setSt b).paused = s.paused := rfl
@[simp] theorem State.setSt_wait (b : Byte) : (s.setSt b).wait = s.wait := rfl
@[simp] theorem State.setSt_ckpt (b : Byte) : (s.setSt b).ckpt = s.ckpt := rfl
@[simp] theorem State.setSt_fault (b : Byte) : (s.setSt b).fault = s.fault := rfl
@[simp] theorem State.setSt_params (b : Byte) : (s.setSt b).params = s.params := rfl
@[simp] theorem State.setSt_draws (b : Byte) : (s.setSt b).draws = s.draws := rfl

/-! `setKey` -/

@[simp] theorem State.setKey_mem (k : Vector Bool 16) : (s.setKey k).mem = s.mem := rfl
@[simp] theorem State.setKey_v (k : Vector Bool 16) : (s.setKey k).v = s.v := rfl
@[simp] theorem State.setKey_i (k : Vector Bool 16) : (s.setKey k).i = s.i := rfl
@[simp] theorem State.setKey_pc (k : Vector Bool 16) : (s.setKey k).pc = s.pc := rfl
@[simp] theorem State.setKey_stack (k : Vector Bool 16) : (s.setKey k).stack = s.stack := rfl
@[simp] theorem State.setKey_sp (k : Vector Bool 16) : (s.setKey k).sp = s.sp := rfl
@[simp] theorem State.setKey_dt (k : Vector Bool 16) : (s.setKey k).dt = s.dt := rfl
@[simp] theorem State.setKey_st (k : Vector Bool 16) : (s.setKey k).st = s.st := rfl
@[simp] theorem State.setKey_key (k : Vector Bool 16) : (s.setKey k).key = k := rfl
@[simp] theorem State.setKey_disp (k : Vector Bool 16) : (s.setKey k).disp = s.disp := rfl
@[simp] theorem State.setKey_ghost (k : Vector Bool 16) : (s.setKey k).ghost = s.ghost := rfl
@[simp] theorem State.setKey_paused (k : Vector Bool 16) : (s.setKey k).paused = s.paused := rfl
@[simp] theorem State.setKey_wait (k : Vector Bool 16) : (s.setKey k).wait = s.wait := rfl
@[simp] theorem State.setKey_ckpt (k : Vector Bool 16) : (s.setKey k).ckpt = s.ckpt := rfl
@[simp] theorem State.setKey_fault (k : Vector Bool 16) : (s.setKey k).fault = s.fault := rfl
@[simp] theorem State.setKey_params (k : Vector Bool 16) : (s.setKey k).params = s.params := rfl
@[simp] theorem State.setKey_draws (k : Vector Bool 16) : (s.setKey k).draws = s.draws := rfl

/-! `setDisp` -/

@[simp] theorem State.setDisp_mem (d : Display) : (s.setDisp d).mem = s.mem := rfl
@[simp] theorem State.setDisp_v (d : Display) : (s.setDisp d).v = s.v := rfl
@[simp] theorem State.setDisp_i (d : Display) : (s.setDisp d).i = s.i := rfl
@[simp] theorem State.setDisp_pc (d : Display) : (s.setDisp d).pc = s.pc := rfl
@[simp] theorem State.setDisp_stack (d : Display) : (s.setDisp d).stack = s.stack := rfl
@[simp] theorem State.setDisp_sp (d : Display) : (s.setDisp d).sp = s.sp := rfl
@[simp] theorem State.setDisp_dt (d : Display) : (s.setDisp d).dt = s.dt := rfl
@[simp] theorem State.setDisp_st (d : Display) : (s.setDisp d).st = s.st := rfl
@[simp] theorem State.setDisp_key (d : Display) : (s.setDisp d).key = s.key := rfl
@[simp] theorem State.setDisp_disp (d : Display) : (s.setDisp d).disp = d := rfl
@[simp] theorem State.setDisp_ghost (d : Display) : (s.setDisp d).ghost = s.ghost := rfl
@[simp] theorem State.setDisp_paused (d : Display) : (s.setDisp d).paused = s.paused := rfl
@[simp] theorem State.setDisp_wait (d : Display) : (s.setDisp d).wait = s.wait := rfl
@[simp] theorem State.setDisp_ckpt (d : Display) : (s.setDisp d).ckpt = s.ckpt := rfl
@[simp] theorem State.setDisp_fault (d : Display) : (s.setDisp d).fault = s.fault := rfl
@[simp] theorem State.setDisp_params (d : Display) : (s.setDisp d).params = s.params := rfl
@[simp] theorem State.setDisp_draws (d : Display) : (s.setDisp d).draws = s.draws := rfl

/-! `setGhost` -/

@[simp] theorem State.setGhost_mem (g : Ghost) : (s.setGhost g).mem = s.mem := rfl
@[simp] theorem State.setGhost_v (g : Ghost) : (s.setGhost g).v = s.v := rfl
@[simp] theorem State.setGhost_i (g : Ghost) : (s.setGhost g).i = s.i := rfl
@[simp] theorem State.setGhost_pc (g : Ghost) : (s.setGhost g).pc = s.pc := rfl
@[simp] theorem State.setGhost_stack (g : Ghost) : (s.setGhost g).stack = s.stack := rfl
@[simp] theorem State.setGhost_sp (g : Ghost) : (s.setGhost g).sp = s.sp := rfl
@[simp] theorem State.setGhost_dt (g : Ghost) : (s.setGhost g).dt = s.dt := rfl
@[simp] theorem State.setGhost_st (g : Ghost) : (s.setGhost g).st = s.st := rfl
@[simp] theorem State.setGhost_key (g : Ghost) : (s.setGhost g).key = s.key := rfl
@[simp] theorem State.setGhost_disp (g : Ghost) : (s.setGhost g).disp = s.disp := rfl
@[simp] theorem State.setGhost_ghost (g : Ghost) : (s.setGhost g).ghost = g := rfl
@[simp] theorem State.setGhost_paused (g : Ghost) : (s.setGhost g).paused = s.paused := rfl
@[simp] theorem State.setGhost_wait (g : Ghost) : (s.setGhost g).wait = s.wait := rfl
@[simp] theorem State.setGhost_ckpt (g : Ghost) : (s.setGhost g).ckpt = s.ckpt := rfl
@[simp] theorem State.setGhost_fault (g : Ghost) : (s.setGhost g).fault = s.fault := rfl
@[simp] theorem State.setGhost_params (g : Ghost) : (s.setGhost g).params = s.params := rfl
@[simp] theorem State.setGhost_draws (g : Ghost) : (s.setGhost g).draws = s.draws := rfl

/-! `setPaused` -/

@[simp] theorem State.setPaused_mem (b : Bool) : (s.setPaused b).mem = s.mem := rfl
@[simp] theorem State.setPaused_v (b : Bool) : (s.setPaused b).v = s.v := rfl
@[simp] theorem State.setPaused_i (b : Bool) : (s.setPaused b).i = s.i := rfl
@[simp] theorem State.setPaused_pc (b : Bool) : (s.setPaused b).pc = s.pc := rfl
@[simp] theorem State.setPaused_stack (b : Bool) : (s.setPaused b).stack = s.stack := rfl
@[simp] theorem State.setPaused_sp (b : Bool) : (s.setPaused b).sp = s.sp := rfl
@[simp] theorem State.setPaused_dt (b : Bool) : (s.setPaused b).dt = s.dt := rfl
@[simp] theorem State.setPaused_st (b : Bool) : (s.setPaused b).st = s.st := rfl
@[simp] theorem State.setPaused_key (b : Bool) : (s.setPaused b).key = s.key := rfl
@[simp] theorem State.setPaused_disp (b : Bool) : (s.setPaused b).disp = s.disp := rfl
@[simp] theorem State.setPaused_ghost (b : Bool) : (s.setPaused b).ghost = s.ghost := rfl
@[simp] theorem State.setPaused_paused (b : Bool) : (s.setPaused b).paused = b := rfl
@[simp] theorem State.setPaused_wait (b : Bool) : (s.setPaused b).wait = s.wait := rfl
@[simp] theorem State.setPaused_ckpt (b : Bool) : (s.setPaused b).ckpt = s.ckpt := rfl
@[simp] theorem State.setPaused_fault (b : Bool) : (s.setPaused b).fault = s.fault := rfl
@[simp] theorem State.setPaused_params (b : Bool) : (s.setPaused b).params = s.params := rfl
@[simp] theorem State.setPaused_draws (b : Bool) : (s.setPaused b).draws = s.draws := rfl

/-! `setWait` -/

@[simp] theorem State.setWait_mem (w : Option Reg) : (s.setWait w).mem = s.mem := rfl
@[simp] theorem State.setWait_v (w : Option Reg) : (s.setWait w).v = s.v := rfl
@[simp] theorem State.setWait_i (w : Option Reg) : (s.setWait w).i = s.i := rfl
@[simp] theorem State.setWait_pc (w : Option Reg) : (s.setWait w).pc = s.pc := rfl
@[simp] theorem State.setWait_stack (w : Option Reg) : (s.setWait w).stack = s.stack := rfl
@[simp] theorem State.setWait_sp (w : Option Reg) : (s.setWait w).sp = s.sp := rfl
@[simp] theorem State.setWait_dt (w : Option Reg) : (s.setWait w).dt = s.dt := rfl
@[simp] theorem State.setWait_st (w : Option Reg) : (s.setWait w).st = s.st := rfl
@[simp] theorem State.setWait_key (w : Option Reg) : (s.setWait w).key = s.key := rfl
@[simp] theorem State.setWait_disp (w : Option Reg) : (s.setWait w).disp = s.disp := rfl
@[simp] theorem State.setWait_ghost (w : Option Reg) : (s.setWait w).ghost = s.ghost := rfl
@[simp] theorem State.setWait_paused (w : Option Reg) : (s.setWait w).paused = s.paused := rfl
@[simp] theorem State.setWait_wait (w : Option Reg) : (s.setWait w).wait = w := rfl
@[simp] theorem State.setWait_ckpt (w : Option Reg) : (s.setWait w).ckpt = s.ckpt := rfl
@[simp] theorem State.setWait_fault (w : Option Reg) : (s.setWait w).fault = s.fault := rfl
@[simp] theorem State.setWait_params (w : Option Reg) : (s.setWait w).params = s.params := rfl
@[simp] theorem State.setWait_draws (w : Option Reg) : (s.setWait w).draws = s.draws := rfl

/-! `setCkpt` -/

@[simp] theorem State.setCkpt_mem (c : Option Snapshot) : (s.setCkpt c).mem = s.mem := rfl
@[simp] theorem State.setCkpt_v (c : Option Snapshot) : (s.setCkpt c).v = s.v := rfl
@[simp] theorem State.setCkpt_i (c : Option Snapshot) : (s.setCkpt c).i = s.i := rfl
@[simp] theorem State.setCkpt_pc (c : Option Snapshot) : (s.setCkpt c).pc = s.pc := rfl
@[simp] theorem State.setCkpt_stack (c : Option Snapshot) : (s.setCkpt c).stack = s.stack := rfl
@[simp] theorem State.setCkpt_sp (c : Option Snapshot) : (s.setCkpt c).sp = s.sp := rfl
@[simp] theorem State.setCkpt_dt (c : Option Snapshot) : (s.setCkpt c).dt = s.dt := rfl
@[simp] theorem State.setCkpt_st (c : Option Snapshot) : (s.setCkpt c).st = s.st := rfl
@[simp] theorem State.setCkpt_key (c : Option Snapshot) : (s.setCkpt c).key = s.key := rfl
@[simp] theorem State.setCkpt_disp (c : Option Snapshot) : (s.setCkpt c).disp = s.disp := rfl
@[simp] theorem State.setCkpt_ghost (c : Option Snapshot) : (s.setCkpt c).ghost = s.ghost := rfl
@[simp] theorem State.setCkpt_paused (c : Option Snapshot) : (s.setCkpt c).paused = s.paused := rfl
@[simp] theorem State.setCkpt_wait (c : Option Snapshot) : (s.setCkpt c).wait = s.wait := rfl
@[simp] theorem State.setCkpt_ckpt (c : Option Snapshot) : (s.setCkpt c).ckpt = c := rfl
@[simp] theorem State.setCkpt_fault (c : Option Snapshot) : (s.setCkpt c).fault = s.fault := rfl
@[simp] theorem State.setCkpt_params (c : Option Snapshot) : (s.setCkpt c).params = s.params := rfl
@[simp] theorem State.setCkpt_draws (c : Option Snapshot) : (s.setCkpt c).draws = s.draws := rfl

/-! `setFault` -/

@[simp] theorem State.setFault_mem (c : FaultCode) : (s.setFault c).mem = s.mem := rfl
@[simp] theorem State.setFault_v (c : FaultCode) : (s.setFault c).v = s.v := rfl
@[simp] theorem State.setFault_i (c : FaultCode) : (s.setFault c).i = s.i := rfl
@[simp] theorem State.setFault_pc (c : FaultCode) : (s.setFault c).pc = s.pc := rfl
@[simp] theorem State.setFault_stack (c : FaultCode) : (s.setFault c).stack = s.stack := rfl
@[simp] theorem State.setFault_sp (c : FaultCode) : (s.setFault c).sp = s.sp := rfl
@[simp] theorem State.setFault_dt (c : FaultCode) : (s.setFault c).dt = s.dt := rfl
@[simp] theorem State.setFault_st (c : FaultCode) : (s.setFault c).st = s.st := rfl
@[simp] theorem State.setFault_key (c : FaultCode) : (s.setFault c).key = s.key := rfl
@[simp] theorem State.setFault_disp (c : FaultCode) : (s.setFault c).disp = s.disp := rfl
@[simp] theorem State.setFault_ghost (c : FaultCode) : (s.setFault c).ghost = s.ghost := rfl
@[simp] theorem State.setFault_paused (c : FaultCode) : (s.setFault c).paused = s.paused := rfl
@[simp] theorem State.setFault_wait (c : FaultCode) : (s.setFault c).wait = s.wait := rfl
@[simp] theorem State.setFault_ckpt (c : FaultCode) : (s.setFault c).ckpt = s.ckpt := rfl
@[simp] theorem State.setFault_fault (c : FaultCode) : (s.setFault c).fault = c := rfl
@[simp] theorem State.setFault_params (c : FaultCode) : (s.setFault c).params = s.params := rfl
@[simp] theorem State.setFault_draws (c : FaultCode) : (s.setFault c).draws = s.draws := rfl

/-! `setMem` -/

@[simp] theorem State.setMem_mem (m : Memory) : (s.setMem m).mem = m := rfl
@[simp] theorem State.setMem_v (m : Memory) : (s.setMem m).v = s.v := rfl
@[simp] theorem State.setMem_i (m : Memory) : (s.setMem m).i = s.i := rfl
@[simp] theorem State.setMem_pc (m : Memory) : (s.setMem m).pc = s.pc := rfl
@[simp] theorem State.setMem_stack (m : Memory) : (s.setMem m).stack = s.stack := rfl
@[simp] theorem State.setMem_sp (m : Memory) : (s.setMem m).sp = s.sp := rfl
@[simp] theorem State.setMem_dt (m : Memory) : (s.setMem m).dt = s.dt := rfl
@[simp] theorem State.setMem_st (m : Memory) : (s.setMem m).st = s.st := rfl
@[simp] theorem State.setMem_key (m : Memory) : (s.setMem m).key = s.key := rfl
@[simp] theorem State.setMem_disp (m : Memory) : (s.setMem m).disp = s.disp := rfl
@[simp] theorem State.setMem_ghost (m : Memory) : (s.setMem m).ghost = s.ghost := rfl
@[simp] theorem State.setMem_paused (m : Memory) : (s.setMem m).paused = s.paused := rfl
@[simp] theorem State.setMem_wait (m : Memory) : (s.setMem m).wait = s.wait := rfl
@[simp] theorem State.setMem_ckpt (m : Memory) : (s.setMem m).ckpt = s.ckpt := rfl
@[simp] theorem State.setMem_fault (m : Memory) : (s.setMem m).fault = s.fault := rfl
@[simp] theorem State.setMem_params (m : Memory) : (s.setMem m).params = s.params := rfl
@[simp] theorem State.setMem_draws (m : Memory) : (s.setMem m).draws = s.draws := rfl

/-! `setDraws` -/

@[simp] theorem State.setDraws_mem (k : Nat) : (s.setDraws k).mem = s.mem := rfl
@[simp] theorem State.setDraws_v (k : Nat) : (s.setDraws k).v = s.v := rfl
@[simp] theorem State.setDraws_i (k : Nat) : (s.setDraws k).i = s.i := rfl
@[simp] theorem State.setDraws_pc (k : Nat) : (s.setDraws k).pc = s.pc := rfl
@[simp] theorem State.setDraws_stack (k : Nat) : (s.setDraws k).stack = s.stack := rfl
@[simp] theorem State.setDraws_sp (k : Nat) : (s.setDraws k).sp = s.sp := rfl
@[simp] theorem State.setDraws_dt (k : Nat) : (s.setDraws k).dt = s.dt := rfl
@[simp] theorem State.setDraws_st (k : Nat) : (s.setDraws k).st = s.st := rfl
@[simp] theorem State.setDraws_key (k : Nat) : (s.setDraws k).key = s.key := rfl
@[simp] theorem State.setDraws_disp (k : Nat) : (s.setDraws k).disp = s.disp := rfl
@[simp] theorem State.setDraws_ghost (k : Nat) : (s.setDraws k).ghost = s.ghost := rfl
@[simp] theorem State.setDraws_paused (k : Nat) : (s.setDraws k).paused = s.paused := rfl
@[simp] theorem State.setDraws_wait (k : Nat) : (s.setDraws k).wait = s.wait := rfl
@[simp] theorem State.setDraws_ckpt (k : Nat) : (s.setDraws k).ckpt = s.ckpt := rfl
@[simp] theorem State.setDraws_fault (k : Nat) : (s.setDraws k).fault = s.fault := rfl
@[simp] theorem State.setDraws_params (k : Nat) : (s.setDraws k).params = s.params := rfl
@[simp] theorem State.setDraws_draws (k : Nat) : (s.setDraws k).draws = k := rfl

/-! Moving PC, and the operations that change memory only -/

@[simp] theorem State.advance_mem : s.advance.mem = s.mem := rfl
@[simp] theorem State.advance_v : s.advance.v = s.v := rfl
@[simp] theorem State.advance_i : s.advance.i = s.i := rfl
@[simp] theorem State.advance_pc : s.advance.pc = s.pc + 2 := rfl
@[simp] theorem State.advance_stack : s.advance.stack = s.stack := rfl
@[simp] theorem State.advance_sp : s.advance.sp = s.sp := rfl
@[simp] theorem State.advance_dt : s.advance.dt = s.dt := rfl
@[simp] theorem State.advance_st : s.advance.st = s.st := rfl
@[simp] theorem State.advance_key : s.advance.key = s.key := rfl
@[simp] theorem State.advance_disp : s.advance.disp = s.disp := rfl
@[simp] theorem State.advance_ghost : s.advance.ghost = s.ghost := rfl
@[simp] theorem State.advance_paused : s.advance.paused = s.paused := rfl
@[simp] theorem State.advance_wait : s.advance.wait = s.wait := rfl
@[simp] theorem State.advance_ckpt : s.advance.ckpt = s.ckpt := rfl
@[simp] theorem State.advance_fault : s.advance.fault = s.fault := rfl
@[simp] theorem State.advance_params : s.advance.params = s.params := rfl
@[simp] theorem State.advance_draws : s.advance.draws = s.draws := rfl

@[simp] theorem State.skipIf_mem (c : Bool) : (s.skipIf c).mem = s.mem := rfl
@[simp] theorem State.skipIf_v (c : Bool) : (s.skipIf c).v = s.v := rfl
@[simp] theorem State.skipIf_i (c : Bool) : (s.skipIf c).i = s.i := rfl
@[simp] theorem State.skipIf_pc (c : Bool) : (s.skipIf c).pc = (if c then s.pc + 4 else s.pc + 2) := rfl
@[simp] theorem State.skipIf_stack (c : Bool) : (s.skipIf c).stack = s.stack := rfl
@[simp] theorem State.skipIf_sp (c : Bool) : (s.skipIf c).sp = s.sp := rfl
@[simp] theorem State.skipIf_dt (c : Bool) : (s.skipIf c).dt = s.dt := rfl
@[simp] theorem State.skipIf_st (c : Bool) : (s.skipIf c).st = s.st := rfl
@[simp] theorem State.skipIf_key (c : Bool) : (s.skipIf c).key = s.key := rfl
@[simp] theorem State.skipIf_disp (c : Bool) : (s.skipIf c).disp = s.disp := rfl
@[simp] theorem State.skipIf_ghost (c : Bool) : (s.skipIf c).ghost = s.ghost := rfl
@[simp] theorem State.skipIf_paused (c : Bool) : (s.skipIf c).paused = s.paused := rfl
@[simp] theorem State.skipIf_wait (c : Bool) : (s.skipIf c).wait = s.wait := rfl
@[simp] theorem State.skipIf_ckpt (c : Bool) : (s.skipIf c).ckpt = s.ckpt := rfl
@[simp] theorem State.skipIf_fault (c : Bool) : (s.skipIf c).fault = s.fault := rfl
@[simp] theorem State.skipIf_params (c : Bool) : (s.skipIf c).params = s.params := rfl
@[simp] theorem State.skipIf_draws (c : Bool) : (s.skipIf c).draws = s.draws := rfl

@[simp] theorem State.memWrite_mem (a : Word) (b : Byte) :
    (s.memWrite a b).mem = s.mem.write (initByte s.params) (memIndex a) b := rfl
@[simp] theorem State.memWrite_v (a : Word) (b : Byte) : (s.memWrite a b).v = s.v := rfl
@[simp] theorem State.memWrite_i (a : Word) (b : Byte) : (s.memWrite a b).i = s.i := rfl
@[simp] theorem State.memWrite_pc (a : Word) (b : Byte) : (s.memWrite a b).pc = s.pc := rfl
@[simp] theorem State.memWrite_stack (a : Word) (b : Byte) : (s.memWrite a b).stack = s.stack := rfl
@[simp] theorem State.memWrite_sp (a : Word) (b : Byte) : (s.memWrite a b).sp = s.sp := rfl
@[simp] theorem State.memWrite_dt (a : Word) (b : Byte) : (s.memWrite a b).dt = s.dt := rfl
@[simp] theorem State.memWrite_st (a : Word) (b : Byte) : (s.memWrite a b).st = s.st := rfl
@[simp] theorem State.memWrite_key (a : Word) (b : Byte) : (s.memWrite a b).key = s.key := rfl
@[simp] theorem State.memWrite_disp (a : Word) (b : Byte) : (s.memWrite a b).disp = s.disp := rfl
@[simp] theorem State.memWrite_ghost (a : Word) (b : Byte) : (s.memWrite a b).ghost = s.ghost := rfl
@[simp] theorem State.memWrite_paused (a : Word) (b : Byte) : (s.memWrite a b).paused = s.paused := rfl
@[simp] theorem State.memWrite_wait (a : Word) (b : Byte) : (s.memWrite a b).wait = s.wait := rfl
@[simp] theorem State.memWrite_ckpt (a : Word) (b : Byte) : (s.memWrite a b).ckpt = s.ckpt := rfl
@[simp] theorem State.memWrite_fault (a : Word) (b : Byte) : (s.memWrite a b).fault = s.fault := rfl
@[simp] theorem State.memWrite_params (a : Word) (b : Byte) : (s.memWrite a b).params = s.params := rfl
@[simp] theorem State.memWrite_draws (a : Word) (b : Byte) : (s.memWrite a b).draws = s.draws := rfl

/-! A snapshot of a state, and a state taken from a snapshot -/

@[simp] theorem State.snapshot_mem : s.snapshot.mem = s.mem := rfl
@[simp] theorem State.snapshot_v : s.snapshot.v = s.v := rfl
@[simp] theorem State.snapshot_i : s.snapshot.i = s.i := rfl
@[simp] theorem State.snapshot_pc : s.snapshot.pc = s.pc := rfl
@[simp] theorem State.snapshot_stack : s.snapshot.stack = s.stack := rfl
@[simp] theorem State.snapshot_sp : s.snapshot.sp = s.sp := rfl
@[simp] theorem State.snapshot_dt : s.snapshot.dt = s.dt := rfl
@[simp] theorem State.snapshot_st : s.snapshot.st = s.st := rfl
@[simp] theorem State.snapshot_key : s.snapshot.key = s.key := rfl
@[simp] theorem State.snapshot_disp : s.snapshot.disp = s.disp := rfl
@[simp] theorem State.snapshot_ghost : s.snapshot.ghost = s.ghost := rfl
@[simp] theorem State.snapshot_paused : s.snapshot.paused = s.paused := rfl
@[simp] theorem State.snapshot_wait : s.snapshot.wait = s.wait := rfl

@[simp] theorem State.withSnapshot_mem (c : Snapshot) : (s.withSnapshot c).mem = c.mem := rfl
@[simp] theorem State.withSnapshot_v (c : Snapshot) : (s.withSnapshot c).v = c.v := rfl
@[simp] theorem State.withSnapshot_i (c : Snapshot) : (s.withSnapshot c).i = c.i := rfl
@[simp] theorem State.withSnapshot_pc (c : Snapshot) : (s.withSnapshot c).pc = c.pc := rfl
@[simp] theorem State.withSnapshot_stack (c : Snapshot) : (s.withSnapshot c).stack = c.stack := rfl
@[simp] theorem State.withSnapshot_sp (c : Snapshot) : (s.withSnapshot c).sp = c.sp := rfl
@[simp] theorem State.withSnapshot_dt (c : Snapshot) : (s.withSnapshot c).dt = c.dt := rfl
@[simp] theorem State.withSnapshot_st (c : Snapshot) : (s.withSnapshot c).st = c.st := rfl
@[simp] theorem State.withSnapshot_key (c : Snapshot) : (s.withSnapshot c).key = c.key := rfl
@[simp] theorem State.withSnapshot_disp (c : Snapshot) : (s.withSnapshot c).disp = c.disp := rfl
@[simp] theorem State.withSnapshot_ghost (c : Snapshot) : (s.withSnapshot c).ghost = c.ghost := rfl
@[simp] theorem State.withSnapshot_paused (c : Snapshot) : (s.withSnapshot c).paused = c.paused := rfl
@[simp] theorem State.withSnapshot_wait (c : Snapshot) : (s.withSnapshot c).wait = c.wait := rfl
@[simp] theorem State.withSnapshot_ckpt (c : Snapshot) : (s.withSnapshot c).ckpt = s.ckpt := rfl
@[simp] theorem State.withSnapshot_fault (c : Snapshot) : (s.withSnapshot c).fault = s.fault := rfl
@[simp] theorem State.withSnapshot_params (c : Snapshot) : (s.withSnapshot c).params = s.params := rfl
@[simp] theorem State.withSnapshot_draws (c : Snapshot) : (s.withSnapshot c).draws = s.draws := rfl

/-! Reading through an update that does not touch memory -/

/-- A byte read depends on memory and on the parameters alone. -/
theorem memRead_congr {s t : State} (hm : t.mem = s.mem) (hp : t.params = s.params) (a : Word) :
    t.memRead a = s.memRead a := by
  simp only [State.memRead, hm, hp]

@[simp] theorem State.memRead_setV (x : Reg) (b : Byte) (at' : Word) : (s.setV x b).memRead at' = s.memRead at' := rfl
@[simp] theorem State.memRead_setRegs (r : Vector Byte 16) (at' : Word) : (s.setRegs r).memRead at' = s.memRead at' := rfl
@[simp] theorem State.memRead_setI (a : Word) (at' : Word) : (s.setI a).memRead at' = s.memRead at' := rfl
@[simp] theorem State.memRead_setPc (a : Word) (at' : Word) : (s.setPc a).memRead at' = s.memRead at' := rfl
@[simp] theorem State.memRead_setSlot (k : Fin 16) (a : Word) (at' : Word) : (s.setSlot k a).memRead at' = s.memRead at' := rfl
@[simp] theorem State.memRead_setSp (k : Fin 17) (at' : Word) : (s.setSp k).memRead at' = s.memRead at' := rfl
@[simp] theorem State.memRead_setDt (b : Byte) (at' : Word) : (s.setDt b).memRead at' = s.memRead at' := rfl
@[simp] theorem State.memRead_setSt (b : Byte) (at' : Word) : (s.setSt b).memRead at' = s.memRead at' := rfl
@[simp] theorem State.memRead_setKey (k : Vector Bool 16) (at' : Word) : (s.setKey k).memRead at' = s.memRead at' := rfl
@[simp] theorem State.memRead_setDisp (d : Display) (at' : Word) : (s.setDisp d).memRead at' = s.memRead at' := rfl
@[simp] theorem State.memRead_setGhost (g : Ghost) (at' : Word) : (s.setGhost g).memRead at' = s.memRead at' := rfl
@[simp] theorem State.memRead_setPaused (b : Bool) (at' : Word) : (s.setPaused b).memRead at' = s.memRead at' := rfl
@[simp] theorem State.memRead_setWait (w : Option Reg) (at' : Word) : (s.setWait w).memRead at' = s.memRead at' := rfl
@[simp] theorem State.memRead_setCkpt (c : Option Snapshot) (at' : Word) : (s.setCkpt c).memRead at' = s.memRead at' := rfl
@[simp] theorem State.memRead_setFault (c : FaultCode) (at' : Word) : (s.setFault c).memRead at' = s.memRead at' := rfl
@[simp] theorem State.memRead_setDraws (k : Nat) (at' : Word) : (s.setDraws k).memRead at' = s.memRead at' := rfl
@[simp] theorem State.memRead_advance (a : Word) : s.advance.memRead a = s.memRead a := rfl
@[simp] theorem State.memRead_skipIf (c : Bool) (a : Word) : (s.skipIf c).memRead a = s.memRead a := rfl

/-- An update of a field by what it holds is no update. -/
theorem State.setFault_self : s.setFault s.fault = s := rfl

end Sys2Proof.Machine
end

