-- ==== Sys2Proof/Laws/Flags.lean ====
section
/-! SUPPORT. The flag unit as numbers, and everything its write-back can do. -/

namespace Sys2Proof.Machine

open Sys2Proof

/-! ### The results of the unit, as numbers (R98, R113) -/

theorem alu_add_r (a b : Byte) : (alu .add a b).r.toNat = (a.toNat + b.toNat) % 256 := by
  simp [alu]

theorem alu_addnf_r (a b : Byte) : (alu .addnf a b).r.toNat = (a.toNat + b.toNat) % 256 := by
  simp [alu]

theorem alu_sub_r (a b : Byte) : (alu .sub a b).r.toNat = (a.toNat + 256 - b.toNat) % 256 := by
  have := b.isLt
  simp only [alu, BitVec.toNat_ofInt]
  omega

theorem alu_subn_r (a b : Byte) : (alu .subn a b).r.toNat = (b.toNat + 256 - a.toNat) % 256 := by
  have := a.isLt
  simp only [alu, BitVec.toNat_ofInt]
  omega

theorem alu_shr_r (a b : Byte) : (alu .shr a b).r.toNat = a.toNat / 2 := by
  simp [alu, Nat.shiftRight_eq_div_pow]

theorem alu_shl_r (a b : Byte) : (alu .shl a b).r.toNat = 2 * a.toNat % 256 := by
  simp [alu, Nat.shiftLeft_eq, Nat.mul_comm]

/-- Bit 0 and bit 7 of a byte, as numbers. -/
theorem byte_bit0 (a : Byte) : a.getLsbD 0 = decide (a.toNat % 2 = 1) := by
  simp [BitVec.getLsbD, Nat.testBit_zero]

theorem byte_bit7 (a : Byte) : a.getLsbD 7 = decide (a.toNat ≥ 128) := by
  have := a.isLt
  simp only [BitVec.getLsbD, Nat.testBit_eq_decide_div_mod_eq, decide_eq_decide]
  omega

theorem flagByte_decide (p : Prop) [Decidable p] : flagByte (decide p) = if p then 1 else 0 := by
  by_cases h : p <;> simp [flagByte, h]

/-! ### Write-back (R99) -/

theorem writeBack_unflagged {x : Reg} {o : AluOut} (s : State) (h : o.flag = none) : writeBack x o s = s.setV x o.r := by
  simp [writeBack, h]

theorem writeBack_flagged {x : Reg} {o : AluOut} {f : Bool} (s : State) (h : o.flag = some f) (hx : x ≠ regF) :
    writeBack x o s = (s.setV x o.r).setV regF (flagByte f) := by
  simp only [writeBack, h, if_pos hx]

theorem writeBack_flagWins {o : AluOut} {f : Bool} {s : State} (h : o.flag = some f) (hp : s.params.xfPolicy = .flagWins) :
    writeBack regF o s = s.setV regF (flagByte f) := by
  simp [writeBack, h, hp]

theorem writeBack_resultWins {o : AluOut} {f : Bool} {s : State} (h : o.flag = some f)
    (hp : s.params.xfPolicy = .resultWins) : writeBack regF o s = s.setV regF o.r := by
  simp [writeBack, h, hp]

/-- Everything write-back can do. -/
theorem writeBack_cases (x : Reg) (o : AluOut) (s : State) :
    (o.flag = none ∧ writeBack x o s = s.setV x o.r) ∨
    (∃ f, o.flag = some f ∧ x ≠ regF ∧ writeBack x o s = (s.setV x o.r).setV regF (flagByte f)) ∨
    (∃ f, o.flag = some f ∧ x = regF ∧ s.params.xfPolicy = .flagWins ∧ writeBack x o s = s.setV regF (flagByte f)) ∨
    (∃ f, o.flag = some f ∧ x = regF ∧ s.params.xfPolicy = .resultWins ∧ writeBack x o s = s.setV regF o.r) := by
  cases hf : o.flag with
  | none => exact .inl ⟨rfl, writeBack_unflagged s hf⟩
  | some f =>
    by_cases hx : x = regF
    · subst hx
      cases hp : s.params.xfPolicy with
      | flagWins => exact .inr (.inr (.inl ⟨f, rfl, rfl, rfl, writeBack_flagWins hf hp⟩))
      | resultWins => exact .inr (.inr (.inr ⟨f, rfl, rfl, rfl, writeBack_resultWins hf hp⟩))
    · exact .inr (.inl ⟨f, rfl, hx, writeBack_flagged s hf hx⟩)

/-- Whatever the outputs, write-back changes the register file only. -/
theorem writeBack_eq_setRegs (x : Reg) (o : AluOut) (s : State) : ∃ r, writeBack x o s = s.setRegs r := by
  rcases writeBack_cases x o s with ⟨-, h⟩ | ⟨f, -, -, h⟩ | ⟨f, -, -, -, h⟩ | ⟨f, -, -, -, h⟩ <;> exact ⟨_, h⟩

/-- Writing another register leaves this one alone. -/
theorem setV_v_other (s : State) {x z : Reg} (b : Byte) (h : z ≠ x) : (s.setV x b).v[z] = s.v[z] := by
  have : x.val ≠ z.val := fun e => h (Fin.ext e.symm)
  simp [this]

theorem setV_v_same (s : State) (x : Reg) (b : Byte) : (s.setV x b).v[x] = b := by
  simp

/-- Write-back writes Vx, and VF when there is a flag; no other register. -/
theorem writeBack_v_other {x z : Reg} (o : AluOut) (s : State) (hx : z ≠ x) (hf : z ≠ regF) :
    (writeBack x o s).v[z] = s.v[z] := by
  rcases writeBack_cases x o s with ⟨-, h⟩ | ⟨f, -, -, h⟩ | ⟨f, -, -, -, h⟩ | ⟨f, -, -, -, h⟩ <;> rw [h]
  · exact setV_v_other s _ hx
  · rw [setV_v_other _ _ hf, setV_v_other _ _ hx]
  · exact setV_v_other s _ hf
  · exact setV_v_other s _ hf

end Sys2Proof.Machine
end

