-- ==== Sys2Proof/Laws/Memory.lean ====
section
/-! SUPPORT. The laws of memory: a read after a write, and that every operation keeps the canonical form. -/

namespace Sys2Proof

variable (dflt : Nat → Byte)

@[simp] theorem Memory.read_nil (a : Nat) : Memory.read dflt [] a = dflt a := rfl

theorem Memory.read_cons (b : Nat) (v : Byte) (rest : Memory) (a : Nat) :
    Memory.read dflt ((b, v) :: rest) a = if a = b then v else Memory.read dflt rest a := rfl

/-- An address below every listed one reads as an unlisted address does. -/
theorem Memory.read_below {m : Memory} {a : Nat} (h : ∀ c ∈ m, a < c.1) : Memory.read dflt m a = dflt a := by
  induction m with
  | nil => rfl
  | cons c rest ih =>
    obtain ⟨b, v⟩ := c
    have hb : a < b := h (b, v) (by simp)
    rw [Memory.read_cons, if_neg (by omega)]
    exact ih (fun c hc => h c (by simp [hc]))

/-- A cell put before others is what its own address reads as, if no other cell has that address. -/
theorem Memory.read_consCell_same {rest : Memory} {a : Nat} (v : Byte) (h : ∀ c ∈ rest, a < c.1) :
    Memory.read dflt (Memory.consCell dflt a v rest) a = v := by
  unfold Memory.consCell
  split
  · rename_i hv
    rw [Memory.read_below dflt h, hv]
  · simp [Memory.read_cons]

theorem Memory.read_consCell_other (rest : Memory) {a b : Nat} (v : Byte) (h : b ≠ a) :
    Memory.read dflt (Memory.consCell dflt a v rest) b = Memory.read dflt rest b := by
  unfold Memory.consCell
  split
  · rfl
  · simp [Memory.read_cons, h]

/-- A write leaves every other address alone. -/
theorem Memory.read_write_other (m : Memory) {a b : Nat} (v : Byte) (h : b ≠ a) :
    Memory.read dflt (Memory.write dflt m a v) b = Memory.read dflt m b := by
  induction m with
  | nil => exact Memory.read_consCell_other dflt [] v h
  | cons c rest ih =>
    obtain ⟨e, u⟩ := c
    unfold Memory.write
    split
    · exact Memory.read_consCell_other dflt _ v h
    · split
      · rename_i he
        rw [Memory.read_consCell_other dflt _ v h, Memory.read_cons, if_neg (by omega)]
      · rw [Memory.read_cons, Memory.read_cons, ih]

/-- The addresses of a canonical memory rise, so those of its tail lie above its head. -/
theorem Memory.tail_above {b : Nat} {u : Byte} {rest : Memory} (h : Memory.wf dflt ((b, u) :: rest)) :
    ∀ c ∈ rest, b < c.1 :=
  (List.pairwise_cons.mp h.1).1

theorem Memory.wf_tail {c : Host.Cell} {rest : Memory} (h : Memory.wf dflt (c :: rest)) : Memory.wf dflt rest :=
  ⟨(List.pairwise_cons.mp h.1).2, fun d hd => h.2 d (by simp [hd])⟩

/-- A read after a write to the same address gives the byte written. -/
theorem Memory.read_write_same {m : Memory} (hm : Memory.wf dflt m) (a : Nat) (v : Byte) :
    Memory.read dflt (Memory.write dflt m a v) a = v := by
  induction m with
  | nil => exact Memory.read_consCell_same dflt v (by simp)
  | cons c rest ih =>
    obtain ⟨b, u⟩ := c
    have habove := Memory.tail_above dflt hm
    unfold Memory.write
    split
    · rename_i hlt
      refine Memory.read_consCell_same dflt v (fun c hc => ?_)
      rcases List.mem_cons.mp hc with rfl | hc
      · exact hlt
      · exact Nat.lt_trans hlt (habove c hc)
    · split
      · rename_i he
        exact Memory.read_consCell_same dflt v (fun c hc => he ▸ habove c hc)
      · rename_i hne
        rw [Memory.read_cons, if_neg hne]
        exact ih (Memory.wf_tail dflt hm)

theorem Memory.consCell_wf {rest : Memory} {a : Nat} (v : Byte) (ha : a < 4096) (hr : Memory.wf dflt rest)
    (h : ∀ c ∈ rest, a < c.1) : Memory.wf dflt (Memory.consCell dflt a v rest) := by
  unfold Memory.consCell
  split
  · exact hr
  · rename_i hv
    refine ⟨List.pairwise_cons.mpr ⟨h, hr.1⟩, fun c hc => ?_⟩
    rcases List.mem_cons.mp hc with rfl | hc
    · exact ⟨ha, hv⟩
    · exact hr.2 c hc

/-- Every cell of a written memory is the written one or was there before. -/
theorem Memory.mem_write {m : Memory} {a : Nat} {v : Byte} {c : Host.Cell} (h : c ∈ Memory.write dflt m a v) :
    c = (a, v) ∨ c ∈ m := by
  induction m with
  | nil =>
    unfold Memory.write Memory.consCell at h
    split at h <;> simp_all
  | cons d rest ih =>
    obtain ⟨b, u⟩ := d
    unfold Memory.write at h
    split at h
    · unfold Memory.consCell at h
      split at h <;> simp_all
    · split at h
      · unfold Memory.consCell at h
        split at h
        · exact .inr (by simp [h])
        · rcases List.mem_cons.mp h with h | h
          · exact .inl h
          · exact .inr (by simp [h])
      · rcases List.mem_cons.mp h with h | h
        · exact .inr (by simp [h])
        · exact (ih h).imp id (fun h => by simp [h])

/-- A write keeps the canonical form. -/
theorem Memory.write_wf {m : Memory} (hm : Memory.wf dflt m) {a : Nat} (ha : a < 4096) (v : Byte) :
    Memory.wf dflt (Memory.write dflt m a v) := by
  induction m with
  | nil => exact Memory.consCell_wf dflt v ha hm (by simp)
  | cons c rest ih =>
    obtain ⟨b, u⟩ := c
    have habove := Memory.tail_above dflt hm
    have hrest := Memory.wf_tail dflt hm
    unfold Memory.write
    split
    · rename_i hlt
      refine Memory.consCell_wf dflt v ha hm (fun c hc => ?_)
      rcases List.mem_cons.mp hc with rfl | hc
      · exact hlt
      · exact Nat.lt_trans hlt (habove c hc)
    · split
      · rename_i he
        exact Memory.consCell_wf dflt v ha hrest (fun c hc => he ▸ habove c hc)
      · rename_i hlt hne
        refine ⟨List.pairwise_cons.mpr ⟨fun c hc => ?_, (ih hrest).1⟩, fun c hc => ?_⟩
        · rcases Memory.mem_write dflt hc with rfl | hc
          · show b < a
            omega
          · exact habove c hc
        · rcases List.mem_cons.mp hc with rfl | hc
          · exact hm.2 _ (by simp)
          · exact (ih hrest).2 c hc

/-- Keeping only the cells from a base up keeps the canonical form. -/
theorem Memory.from_wf {m : Memory} (hm : Memory.wf dflt m) (base : Nat) : Memory.wf dflt (Memory.from base m) :=
  ⟨hm.1.filter _, fun c hc => hm.2 c (List.mem_filter.mp hc).1⟩

/-- From the base up, nothing changes; below it, memory reads as if nothing had been written. -/
theorem Memory.read_from (m : Memory) (base a : Nat) :
    Memory.read dflt (Memory.from base m) a = if base ≤ a then Memory.read dflt m a else dflt a := by
  induction m with
  | nil => simp [Memory.from]
  | cons c rest ih =>
    obtain ⟨b, v⟩ := c
    unfold Memory.from at ih ⊢
    by_cases hb : base ≤ b
    · simp only [List.filter_cons, decide_eq_true_eq, hb, if_true, Memory.read_cons, ih]
      split
      · rename_i he
        simp [he, hb]
      · rfl
    · simp only [List.filter_cons, decide_eq_true_eq, hb, if_false, Memory.read_cons, ih]
      by_cases hbase : base ≤ a
      · have : a ≠ b := by omega
        simp [this]
      · simp [hbase]

theorem Memory.nil_wf : Memory.wf dflt [] := ⟨List.Pairwise.nil, by simp⟩

end Sys2Proof
end

