-- ==== Sys2Proof/Laws/Ops.lean ====
section
/-! SUPPORT. One lemma per shared operation of Machine/Ops.lean and Machine/Operands.lean, saying once what it does: the
memory primitives, the block transfers, the keypad scan, the font check, the block store, memory after Init and Reset. -/

namespace Sys2Proof.Machine

open Sys2Proof

/-! ### Addresses -/

theorem memIndex_lt (a : Word) : memIndex a < 4096 := Nat.mod_lt _ (by decide)

theorem byteAddr_toNat (base : Word) (k : Nat) : (byteAddr base k).toNat = (base.toNat + k) % 65536 := by
  simp only [byteAddr, BitVec.toNat_add, BitVec.toNat_ofNat]
  omega

/-- The effective address of the `k`-th byte of a transfer is `(I + k) mod 4096` (R39, R140). -/
theorem memIndex_byteAddr (base : Word) (k : Nat) : memIndex (byteAddr base k) = (base.toNat + k) % 4096 := by
  simp only [memIndex, byteAddr_toNat]
  omega

/-- Bytes of one transfer of at most 4096 bytes lie at different addresses. -/
theorem memIndex_byteAddr_inj {base : Word} {j k : Nat} (hj : j < 4096) (hk : k < 4096)
    (h : memIndex (byteAddr base j) = memIndex (byteAddr base k)) : j = k := by
  rw [memIndex_byteAddr, memIndex_byteAddr] at h
  omega

/-! ### One byte of memory -/

theorem memWrite_wf {s : State} (h : Memory.wf (initByte s.params) s.mem) (a : Word) (b : Byte) :
    Memory.wf (initByte (s.memWrite a b).params) (s.memWrite a b).mem :=
  Memory.write_wf _ h (memIndex_lt a) b

theorem memRead_memWrite_same {s : State} (h : Memory.wf (initByte s.params) s.mem) {a c : Word} (b : Byte)
    (hc : memIndex c = memIndex a) : (s.memWrite a b).memRead c = b := by
  simp only [State.memRead, State.memWrite_mem, State.memWrite_params, hc]
  exact Memory.read_write_same _ h _ b

theorem memRead_memWrite_other (s : State) {a c : Word} (b : Byte) (hc : memIndex c ≠ memIndex a) :
    (s.memWrite a b).memRead c = s.memRead c :=
  Memory.read_write_other _ _ b hc

/-! ### Block writes -/

/-- A block write changes memory only. -/
theorem writeBytesFrom_eq_setMem (base : Word) (k : Nat) (bs : List Byte) (s : State) :
    ∃ m, State.writeBytesFrom base k bs s = s.setMem m := by
  induction bs generalizing k s with
  | nil => exact ⟨s.mem, rfl⟩
  | cons b bs ih =>
    obtain ⟨m, hm⟩ := ih (k + 1) (s.memWrite (byteAddr base k) b)
    exact ⟨m, hm.trans rfl⟩

theorem writeBytes_eq_setMem (s : State) (base : Word) (bs : List Byte) : ∃ m, s.writeBytes base bs = s.setMem m :=
  writeBytesFrom_eq_setMem base 0 bs s

theorem writeBytesFrom_params (base : Word) (k : Nat) (bs : List Byte) (s : State) :
    (State.writeBytesFrom base k bs s).params = s.params := by
  obtain ⟨m, hm⟩ := writeBytesFrom_eq_setMem base k bs s
  rw [hm, State.setMem_params]

theorem writeBytesFrom_wf (base : Word) (k : Nat) (bs : List Byte) {s : State}
    (h : Memory.wf (initByte s.params) s.mem) :
    Memory.wf (initByte (State.writeBytesFrom base k bs s).params) (State.writeBytesFrom base k bs s).mem := by
  induction bs generalizing k s with
  | nil => exact h
  | cons b bs ih => exact ih (k + 1) (memWrite_wf h _ b)

theorem writeBytes_wf {s : State} (h : Memory.wf (initByte s.params) s.mem) (base : Word) (bs : List Byte) :
    Memory.wf (initByte s.params) (s.writeBytes base bs).mem := by
  have hw := writeBytesFrom_wf base 0 bs h
  rwa [writeBytesFrom_params] at hw

/-- A block write leaves every address it does not name alone. -/
theorem memRead_writeBytesFrom_other (base : Word) (k : Nat) (bs : List Byte) (s : State) (a : Word)
    (h : ∀ j < bs.length, memIndex a ≠ memIndex (byteAddr base (k + j))) :
    (State.writeBytesFrom base k bs s).memRead a = s.memRead a := by
  induction bs generalizing k s with
  | nil => rfl
  | cons b bs ih =>
    have h0 := h 0 (by simp)
    have hrest : ∀ j < bs.length, memIndex a ≠ memIndex (byteAddr base (k + 1 + j)) := fun j hj => by
      have := h (j + 1) (by simp; omega)
      rwa [show k + 1 + j = k + (j + 1) by omega]
    exact (ih (k + 1) _ hrest).trans (memRead_memWrite_other s b h0)

/-- A block write of at most 4096 bytes puts each byte at its address. -/
theorem memRead_writeBytesFrom_same (base : Word) (k : Nat) (bs : List Byte) {s : State}
    (hwf : Memory.wf (initByte s.params) s.mem) (hlen : k + bs.length ≤ 4096) (j : Nat) (hj : j < bs.length) :
    (State.writeBytesFrom base k bs s).memRead (byteAddr base (k + j)) = bs[j] := by
  induction bs generalizing k s j with
  | nil => simp at hj
  | cons b bs ih =>
    simp only [List.length_cons] at hlen hj
    cases j with
    | zero =>
      refine (memRead_writeBytesFrom_other base (k + 1) bs _ _ (fun j hj' he => ?_)).trans
        (memRead_memWrite_same hwf b rfl)
      have := memIndex_byteAddr_inj (by omega) (by omega) he
      omega
    | succ j =>
      have := ih (k + 1) (memWrite_wf hwf (byteAddr base k) b) (by omega) j (by omega)
      rw [show k + (j + 1) = k + 1 + j by omega]
      exact this

theorem memRead_writeBytes_other (s : State) (base : Word) (bs : List Byte) (a : Word)
    (h : ∀ j < bs.length, memIndex a ≠ memIndex (byteAddr base j)) : (s.writeBytes base bs).memRead a = s.memRead a :=
  memRead_writeBytesFrom_other base 0 bs s a (by simpa using h)

theorem memRead_writeBytes_same {s : State} (hwf : Memory.wf (initByte s.params) s.mem) (base : Word) (bs : List Byte)
    (hlen : bs.length ≤ 4096) (j : Nat) (hj : j < bs.length) :
    (s.writeBytes base bs).memRead (byteAddr base j) = bs[j] := by
  have := memRead_writeBytesFrom_same base 0 bs hwf (by omega) j hj
  rwa [Nat.zero_add] at this

/-- A block write depends on the state through memory and the parameters alone: any other field may be set before it or
after it. -/
theorem writeBytes_mem_congr {s t : State} (hm : t.mem = s.mem) (hp : t.params = s.params) (base : Word)
    (bs : List Byte) : (t.writeBytes base bs).mem = (s.writeBytes base bs).mem := by
  unfold State.writeBytes
  generalize 0 = k
  induction bs generalizing k s t with
  | nil => exact hm
  | cons b bs ih =>
    exact ih (s := s.memWrite (byteAddr base k) b) (t := t.memWrite (byteAddr base k) b)
      (by simp only [State.memWrite_mem, hm, hp]) hp (k + 1)

/-! ### The font check and the block store -/

theorem fontWriteFault_iff (s : State) (base : Word) (count : Nat) :
    s.fontWriteFault base count = true ↔
      s.params.fontWrite = .fault ∧ ∃ k, k < count ∧ (base.toNat + k) % 4096 < 80 := by
  simp [State.fontWriteFault, memIndex_byteAddr, fontSize]

/-- Everything a block store can do. -/
theorem storeBlock_cases (bs : List Byte) (s : State) :
    (s.fontWriteFault s.i bs.length = true ∧ storeBlock bs s = .next (s.setFault .fontWrite)) ∨
    (s.fontWriteFault s.i bs.length = false ∧ storeBlock bs s = .next (s.writeBytes s.i bs).advance) := by
  unfold storeBlock raiseFault
  cases h : s.fontWriteFault s.i bs.length <;> simp

@[simp] theorem decimalDigits_length (b : Byte) : (decimalDigits b).length = 3 := rfl

@[simp] theorem regsUpTo_length (s : State) (x : Reg) : (s.regsUpTo x).length = x.val + 1 := by
  simp [State.regsUpTo]

theorem regsUpTo_getElem (s : State) (x : Reg) (k : Nat) (h : k < (s.regsUpTo x).length) :
    (s.regsUpTo x)[k] = s.v[k]'(by simp at h; omega) := by
  simp [State.regsUpTo]

theorem regsLoaded_getElem (s : State) (x k : Reg) :
    (s.regsLoaded x)[k] = if k ≤ x then s.memRead (byteAddr s.i k.val) else s.v[k] := by
  simp [State.regsLoaded]

theorem readBytes_length (s : State) (base : Word) (count : Nat) : (s.readBytes base count).length = count := by
  simp [State.readBytes]

theorem readBytes_getElem (s : State) (base : Word) (count k : Nat) (h : k < (s.readBytes base count).length) :
    (s.readBytes base count)[k] = s.memRead (byteAddr base k) := by
  simp [State.readBytes]

/-! ### The keypad -/

/-- The scan of the keypad finds the least pressed key. -/
theorem leastKey_eq_some_iff (key : Vector Bool 16) (k : Reg) :
    leastKey key = some k ↔ key[k] = true ∧ ∀ j : Reg, j < k → key[j] = false := by
  simp only [leastKey, List.find?_eq_some_iff_getElem, List.getElem_finRange]
  constructor
  · rintro ⟨hk, i, hi, he, hlt⟩
    refine ⟨hk, fun j hj => ?_⟩
    have hval : i = k.val := congrArg Fin.val he
    simpa using hlt j.val (hval ▸ hj)
  · rintro ⟨hk, hlt⟩
    refine ⟨hk, k.val, by simp, by simp, fun j hj => ?_⟩
    have := hlt ⟨j, by omega⟩ hj
    simpa using this

theorem leastKey_eq_none_iff (key : Vector Bool 16) : leastKey key = none ↔ ∀ k : Reg, key[k] = false := by
  simp [leastKey]

/-- Everything a Step in the key wait can do. -/
theorem keyWaitStep_cases (x : Reg) (s : State) :
    (keyWaitStep x s = .next s ∧ (s.params.keywaitMode = .stall ∨ leastKey s.key = none)) ∨
    ∃ k, s.params.keywaitMode = .resume ∧ leastKey s.key = some k ∧ keyWaitStep x s = .next (s.resolveWait x k) := by
  unfold keyWaitStep
  cases hm : s.params.keywaitMode with
  | stall => exact .inl ⟨rfl, .inl rfl⟩
  | resume =>
    cases hk : leastKey s.key with
    | none => exact .inl ⟨rfl, .inr rfl⟩
    | some k => exact .inr ⟨k, rfl, rfl, rfl⟩

/-! ### Memory after Init and Reset -/

/-- Init: every byte is what an unlisted address reads as. -/
@[simp] theorem memRead_hostInit (s : State) (a : Word) : (hostInit s).memRead a = initByte s.params (memIndex a) := rfl

/-- Reset: the program bytes stay, everything below them is as Init leaves it. -/
theorem memRead_hostReset (s : State) (a : Word) :
    (hostReset s).memRead a = if progBase ≤ memIndex a then s.memRead a else initByte s.params (memIndex a) :=
  Memory.read_from (initByte s.params) s.mem progBase (memIndex a)

end Sys2Proof.Machine
end

