-- ==== Sys2Proof/Laws/Exec.lean ====
section
/-! SUPPORT. What the meanings with more than one outcome do, outcome by outcome, and what every step can do. -/

namespace Sys2Proof.Machine

open Sys2Proof

/-! ### CALL and RET -/

theorem execCall_room (nnn : Addr) {s : State} (h : s.sp.val < 16) :
    execCall nnn s =
      .next (((s.setSlot ⟨s.sp.val, h⟩ s.pc).setSp (Fin.succ ⟨s.sp.val, h⟩)).setPc (zextAddr nnn)) :=
  dif_pos h

theorem execCall_full (nnn : Addr) {s : State} (h : s.sp.val = 16) :
    execCall nnn s = .next (s.setFault .stackOverflow) :=
  dif_neg (by omega)

/-- The slot RET pops. -/
theorem pop_lt (s : State) (_h : s.sp.val ≠ 0) : s.sp.val - 1 < 16 := by
  have := s.sp.isLt
  omega

theorem execRet_pop {s : State} (h : s.sp.val ≠ 0) :
    execRet s =
      .next ((s.setSp (Fin.castSucc ⟨s.sp.val - 1, pop_lt s h⟩)).setPc (s.stack[s.sp.val - 1]'(pop_lt s h) + 2)) :=
  dif_neg h

theorem execRet_empty {s : State} (h : s.sp.val = 0) : execRet s = .next (s.setFault .stackUnderflow) :=
  dif_pos h

/-! ### The key skips -/

theorem keySkip_key {x : Reg} (level : Bool) {s : State} (h : s.v[x].toNat < 16) :
    keySkip x level s = .next (s.skipIf (s.key[s.v[x].toNat] == level)) := by
  have hk : keyOfByte (s.getV x) = some ⟨s.v[x].toNat, h⟩ := dif_pos h
  simp only [keySkip, hk, Fin.getElem_fin]

theorem keySkip_noKey {x : Reg} (level : Bool) {s : State} (h : 16 ≤ s.v[x].toNat) :
    keySkip x level s = .next (s.setFault .keyIndex) := by
  have hk : keyOfByte (s.getV x) = none := dif_neg (show ¬ s.v[x].toNat < 16 by omega)
  simp only [keySkip, hk, raiseFault]

/-! ### LD Vx, K -/

theorem execLdVxK_key (x : Reg) {s : State} {k : Reg} (h : leastKey s.key = some k) :
    execLdVxK x s = .next ((s.setV x (BitVec.ofNat 8 k.val)).setWait none).advance := by
  simp only [execLdVxK, h]

theorem execLdVxK_block (x : Reg) {s : State} (h : leastKey s.key = none) :
    execLdVxK x s = .next (s.setWait (some x)) := by
  simp only [execLdVxK, h]

/-- The byte a key number is stored as. -/
theorem keyByte_toNat (k : Reg) : (BitVec.ofNat 8 k.val).toNat = k.val := by
  simp only [BitVec.toNat_ofNat]
  omega

/-! ### Step -/

/-- Everything a Step can do (R70). -/
theorem step_cases (s : State) :
    (s.fault ≠ .none ∧ step s = .next s) ∨
    (∃ x, s.fault = .none ∧ s.wait = some x ∧ step s = keyWaitStep x s) ∨
    (∃ i, s.fault = .none ∧ s.wait = none ∧ s.fetchDecode = .op i ∧ step s = exec i s) ∨
    (∃ w, s.fault = .none ∧ s.wait = none ∧ s.fetchDecode = .unrecognized w ∧ step s = .next s.advance) := by
  unfold step
  by_cases hf : s.fault = .none
  · rw [if_neg (by simp [hf])]
    cases hw : s.wait with
    | some x => exact .inr (.inl ⟨x, hf, rfl, rfl⟩)
    | none =>
      cases hd : s.fetchDecode with
      | op i => exact .inr (.inr (.inl ⟨i, hf, rfl, rfl, rfl⟩))
      | unrecognized w => exact .inr (.inr (.inr ⟨w, hf, rfl, rfl, rfl⟩))
  · rw [if_pos hf]
    exact .inl ⟨hf, rfl⟩

theorem step_faulted {s : State} (h : s.fault ≠ .none) : step s = .next s := if_pos h

theorem step_waiting {s : State} {x : Reg} (hf : s.fault = .none) (hw : s.wait = some x) : step s = keyWaitStep x s := by
  simp [step, hf, hw]

theorem step_exec {s : State} {i : Instr} (hf : s.fault = .none) (hw : s.wait = none) (hd : s.fetchDecode = .op i) :
    step s = exec i s := by
  simp [step, hf, hw, hd]

theorem step_unrecognized {s : State} {w : Word} (hf : s.fault = .none) (hw : s.wait = none)
    (hd : s.fetchDecode = .unrecognized w) : step s = .next s.advance := by
  simp [step, hf, hw, hd, execUnrecognized]

/-- Fetching depends on memory, the parameters and PC alone. -/
theorem fetchDecode_congr {s t : State} (hm : t.mem = s.mem) (hp : t.params = s.params) (hpc : t.pc = s.pc) :
    t.fetchDecode = s.fetchDecode := by
  simp only [State.fetchDecode, State.fetchWord, memRead_congr hm hp, hpc]

end Sys2Proof.Machine
end

