-- ==== Sys2Proof/Laws/PerInstr.lean ====
section
/-! SUPPORT. Facts about every instruction as syntax, made one constructor at a time.

`FamilyNibble`: the high nibble of an instruction's word is the family that spec/30_encoding.md R57 selects it by. -/

namespace Sys2Proof.Laws.FamilyNibble

open Sys2Proof

/-- The family of an instruction: the high nibble of its row in spec/opcode_table.json. -/
def family : Instr → Nibble
  | .sys _ => 0x0
  | .cls => 0x0
  | .ret => 0x0
  | .jp _ => 0x1
  | .call _ => 0x2
  | .seImm _ _ => 0x3
  | .sneImm _ _ => 0x4
  | .seReg _ _ => 0x5
  | .ldImm _ _ => 0x6
  | .addImm _ _ => 0x7
  | .ldReg _ _ => 0x8
  | .orReg _ _ => 0x8
  | .andReg _ _ => 0x8
  | .xorReg _ _ => 0x8
  | .addReg _ _ => 0x8
  | .subReg _ _ => 0x8
  | .shr _ _ => 0x8
  | .subnReg _ _ => 0x8
  | .shl _ _ => 0x8
  | .sneReg _ _ => 0x9
  | .ldI _ => 0xA
  | .jpV0 _ => 0xB
  | .rnd _ _ => 0xC
  | .drw _ _ _ => 0xD
  | .skp _ => 0xE
  | .sknp _ => 0xE
  | .ldVxDt _ => 0xF
  | .ldVxK _ => 0xF
  | .ldDtVx _ => 0xF
  | .ldStVx _ => 0xF
  | .addIVx _ => 0xF
  | .ldFVx _ => 0xF
  | .ldBVx _ => 0xF
  | .ldMemVx _ => 0xF
  | .ldVxMem _ => 0xF

def Statement (i : Instr) : Prop := fieldFamily (encode i) = family i

theorem sys (nnn : Addr) : Statement (.sys nnn) := fieldFamily_wordNnn _ _
theorem cls : Statement .cls := rfl
theorem ret : Statement .ret := rfl
theorem jp (nnn : Addr) : Statement (.jp nnn) := fieldFamily_wordNnn _ _
theorem call (nnn : Addr) : Statement (.call nnn) := fieldFamily_wordNnn _ _
theorem seImm (x : Reg) (nn : Byte) : Statement (.seImm x nn) := fieldFamily_wordXnn _ _ _
theorem sneImm (x : Reg) (nn : Byte) : Statement (.sneImm x nn) := fieldFamily_wordXnn _ _ _
theorem seReg (x y : Reg) : Statement (.seReg x y) := fieldFamily_wordXyn _ _ _ _
theorem ldImm (x : Reg) (nn : Byte) : Statement (.ldImm x nn) := fieldFamily_wordXnn _ _ _
theorem addImm (x : Reg) (nn : Byte) : Statement (.addImm x nn) := fieldFamily_wordXnn _ _ _
theorem ldReg (x y : Reg) : Statement (.ldReg x y) := fieldFamily_wordXyn _ _ _ _
theorem orReg (x y : Reg) : Statement (.orReg x y) := fieldFamily_wordXyn _ _ _ _
theorem andReg (x y : Reg) : Statement (.andReg x y) := fieldFamily_wordXyn _ _ _ _
theorem xorReg (x y : Reg) : Statement (.xorReg x y) := fieldFamily_wordXyn _ _ _ _
theorem addReg (x y : Reg) : Statement (.addReg x y) := fieldFamily_wordXyn _ _ _ _
theorem subReg (x y : Reg) : Statement (.subReg x y) := fieldFamily_wordXyn _ _ _ _
theorem shr (x y : Reg) : Statement (.shr x y) := fieldFamily_wordXyn _ _ _ _
theorem subnReg (x y : Reg) : Statement (.subnReg x y) := fieldFamily_wordXyn _ _ _ _
theorem shl (x y : Reg) : Statement (.shl x y) := fieldFamily_wordXyn _ _ _ _
theorem sneReg (x y : Reg) : Statement (.sneReg x y) := fieldFamily_wordXyn _ _ _ _
theorem ldI (nnn : Addr) : Statement (.ldI nnn) := fieldFamily_wordNnn _ _
theorem jpV0 (nnn : Addr) : Statement (.jpV0 nnn) := fieldFamily_wordNnn _ _
theorem rnd (x : Reg) (nn : Byte) : Statement (.rnd x nn) := fieldFamily_wordXnn _ _ _
theorem drw (x y : Reg) (n : Nibble) : Statement (.drw x y n) := fieldFamily_wordXyn _ _ _ _
theorem skp (x : Reg) : Statement (.skp x) := fieldFamily_wordXnn _ _ _
theorem sknp (x : Reg) : Statement (.sknp x) := fieldFamily_wordXnn _ _ _
theorem ldVxDt (x : Reg) : Statement (.ldVxDt x) := fieldFamily_wordXnn _ _ _
theorem ldVxK (x : Reg) : Statement (.ldVxK x) := fieldFamily_wordXnn _ _ _
theorem ldDtVx (x : Reg) : Statement (.ldDtVx x) := fieldFamily_wordXnn _ _ _
theorem ldStVx (x : Reg) : Statement (.ldStVx x) := fieldFamily_wordXnn _ _ _
theorem addIVx (x : Reg) : Statement (.addIVx x) := fieldFamily_wordXnn _ _ _
theorem ldFVx (x : Reg) : Statement (.ldFVx x) := fieldFamily_wordXnn _ _ _
theorem ldBVx (x : Reg) : Statement (.ldBVx x) := fieldFamily_wordXnn _ _ _
theorem ldMemVx (x : Reg) : Statement (.ldMemVx x) := fieldFamily_wordXnn _ _ _
theorem ldVxMem (x : Reg) : Statement (.ldVxMem x) := fieldFamily_wordXnn _ _ _

end Sys2Proof.Laws.FamilyNibble
end

