-- ==== Sys2Proof/Tests/Slice0.lean ====
section
/-! SUPPORT. The model's own tests. Expected results come from the spec: the vectors of spec/95_test_vectors.md, named in
each docstring (S, DR, T and M numbers and the tables of sections 2, 3, 6 and 8), and the encodings of spec/30_encoding.md.
After them, for each obligation with hypotheses, a witness that meets them. -/

namespace Sys2Proof.Tests

open Sys2Proof Sys2Proof.Machine Sys2Proof.Safety

/-- The word `w` at PC. -/
def at200 (w : Nat) (s : State) : State := s.withFetchWord 16 w

/-- The state after one Step. -/
def after (s : State) : State :=
  match step s with
  | .next t => t
  | .fault _ => s
  | .refused _ => s

/-- Init with one parameter changed. -/
def resetStall : State := State.init { defaultParams with keywaitMode := .stall }
def resetResultWins : State := State.init { defaultParams with xfPolicy := .resultWins }
def resetFontFault : State := State.init { defaultParams with fontWrite := .fault }

/-- The keypad with exactly the listed lines pressed. -/
def pressing (ks : List Nat) (s : State) : State := s.setKey (Vector.ofFn (fun j : Fin 16 => ks.contains j.val))

/-! ### WellFormed: the two ill-formed terms, and their neighbours -/

theorem test_wellFormed_refuses_sys_of_cls : (Instr.sys 0x0E0).wellFormed = false := by decide
theorem test_wellFormed_refuses_sys_of_ret : (Instr.sys 0x0EE).wellFormed = false := by decide
theorem test_wellFormed_accepts_neighbours :
    (Instr.sys 0x0E1).wellFormed = true ∧ (Instr.sys 0x0EF).wellFormed = true ∧ (Instr.sys 0x1E0).wellFormed = true := by
  decide

/-! ### Decoding (section 2): every constructor, and every way to be unrecognized -/

theorem test_decode_family_0 :
    decode 0x0000 = .op (.sys 0x000) ∧ decode 0x00E1 = .op (.sys 0x0E1) ∧ decode 0x0FFF = .op (.sys 0xFFF) ∧
    decode 0x00E0 = .op .cls ∧ decode 0x00EE = .op .ret := by decide
theorem test_decode_jumps :
    decode 0x1ABC = .op (.jp 0xABC) ∧ decode 0x2300 = .op (.call 0x300) ∧ decode 0xB123 = .op (.jpV0 0x123) := by decide
theorem test_decode_skips :
    decode 0x3A7F = .op (.seImm 0xA 0x7F) ∧ decode 0x4B00 = .op (.sneImm 0xB 0x00) ∧
    decode 0x5120 = .op (.seReg 1 2) ∧ decode 0x9120 = .op (.sneReg 1 2) ∧
    decode 0xE09E = .op (.skp 0) ∧ decode 0xEFA1 = .op (.sknp 0xF) := by decide
theorem test_decode_immediates :
    decode 0x6F12 = .op (.ldImm 0xF 0x12) ∧ decode 0x7001 = .op (.addImm 0 0x01) ∧
    decode 0xC3F0 = .op (.rnd 3 0xF0) ∧ decode 0xA123 = .op (.ldI 0x123) := by decide
theorem test_decode_family_8 :
    decode 0x8120 = .op (.ldReg 1 2) ∧ decode 0x8121 = .op (.orReg 1 2) ∧ decode 0x8122 = .op (.andReg 1 2) ∧
    decode 0x8123 = .op (.xorReg 1 2) ∧ decode 0x8124 = .op (.addReg 1 2) ∧ decode 0x8125 = .op (.subReg 1 2) ∧
    decode 0x8126 = .op (.shr 1 2) ∧ decode 0x8127 = .op (.subnReg 1 2) ∧ decode 0x812E = .op (.shl 1 2) := by decide
theorem test_decode_drw : decode 0xD000 = .op (.drw 0 0 0) ∧ decode 0xDEFF = .op (.drw 0xE 0xF 0xF) := by decide
theorem test_decode_family_F :
    decode 0xF107 = .op (.ldVxDt 1) ∧ decode 0xF10A = .op (.ldVxK 1) ∧ decode 0xF115 = .op (.ldDtVx 1) ∧
    decode 0xF118 = .op (.ldStVx 1) ∧ decode 0xF11E = .op (.addIVx 1) ∧ decode 0xF129 = .op (.ldFVx 1) ∧
    decode 0xF133 = .op (.ldBVx 1) ∧ decode 0xF155 = .op (.ldMemVx 1) ∧ decode 0xFF65 = .op (.ldVxMem 0xF) := by decide
theorem test_decode_unrecognized :
    decode 0x5121 = .unrecognized 0x5121 ∧ decode 0x8128 = .unrecognized 0x8128 ∧ decode 0x812D = .unrecognized 0x812D ∧
    decode 0x812F = .unrecognized 0x812F ∧ decode 0x912F = .unrecognized 0x912F ∧ decode 0xE09F = .unrecognized 0xE09F ∧
    decode 0xE000 = .unrecognized 0xE000 ∧ decode 0xF000 = .unrecognized 0xF000 ∧ decode 0xF0FF = .unrecognized 0xF0FF ∧
    decode 0xF175 = .unrecognized 0xF175 := by decide
theorem test_decodeTableWord :
    decodeTableWord 16 0x8124 = some (.addReg 1 2) ∧ decodeTableWord 16 0x00EE = some .ret ∧
    decodeTableWord 16 0x5121 = none := by decide
theorem test_encode_bytes : wordHi (encode (.drw 0xE 0xF 3)) = 0xDE ∧ wordLo (encode (.drw 0xE 0xF 3)) = 0xF3 := by decide

/-! ### Control transfer (section 5) -/

/-- T1 -/
theorem test_sys : (after (at200 0x0123 State.reset)).pc = 0x202 := by decide
/-- T3 -/
theorem test_jp_odd : (after (at200 0x1201 State.reset)).pc = 0x201 := by decide
/-- T4, with PC = 0x204 -/
theorem test_call :
    let t := after (at200 0x2300 (State.reset.setPc 0x204))
    t.stack[(0 : Fin 16)] = 0x204 ∧ t.sp = 1 ∧ t.pc = 0x300 := by decide
/-- T7 -/
theorem test_call_overflow :
    let t := after (at200 0x2300 (State.reset.setSp 16))
    t.fault = .stackOverflow ∧ t.pc = 0x200 ∧ t.sp = 16 := by decide
/-- T5 -/
theorem test_ret :
    let t := after (at200 0x00EE (((State.reset.setPc 0x300).setSp 1).setSlot 0 0x204))
    t.sp = 0 ∧ t.pc = 0x206 ∧ t.stack[(0 : Fin 16)] = 0x204 := by decide
/-- T6 -/
theorem test_ret_underflow :
    let t := after (at200 0x00EE (State.reset.setPc 0x300))
    t.fault = .stackUnderflow ∧ t.pc = 0x300 ∧ t.sp = 0 := by decide
/-- T8 and T9 -/
theorem test_seImm :
    (after (at200 0x3310 (State.reset.setV 3 0x10))).pc = 0x204 ∧
    (after (at200 0x3310 (State.reset.setV 3 0x11))).pc = 0x202 := by decide
/-- T10 and T11 -/
theorem test_sneImm :
    (after (at200 0x4310 (State.reset.setV 3 0x11))).pc = 0x204 ∧
    (after (at200 0x4310 (State.reset.setV 3 0x10))).pc = 0x202 := by decide
/-- T12 and T13 -/
theorem test_seReg :
    (after (at200 0x5120 ((State.reset.setV 1 7).setV 2 7))).pc = 0x204 ∧
    (after (at200 0x5120 ((State.reset.setV 1 7).setV 2 8))).pc = 0x202 := by decide
/-- T14 and T15 -/
theorem test_sneReg :
    (after (at200 0x9120 ((State.reset.setV 1 7).setV 2 8))).pc = 0x204 ∧
    (after (at200 0x9110 (State.reset.setV 1 7))).pc = 0x202 := by decide
/-- T17: the target is kept at full width and the next fetch wraps -/
theorem test_jpV0_past_the_end :
    let t := after (at200 0xBFFF (State.reset.setV 0 0xFF))
    t.pc = 0x10FE ∧ t.fetchWord = t.memRead 0x0FE ++ t.memRead 0x0FF := by decide
/-- T18 and T19 -/
theorem test_skp :
    (after (at200 0xE59E (pressing [0xA] (State.reset.setV 5 0x0A)))).pc = 0x204 ∧
    (after (at200 0xE59E (State.reset.setV 5 0x0A))).pc = 0x202 := by decide
/-- T20 and T21 -/
theorem test_sknp :
    (after (at200 0xE5A1 (State.reset.setV 5 0x0A))).pc = 0x204 ∧
    (after (at200 0xE5A1 (pressing [0xA] (State.reset.setV 5 0x0A)))).pc = 0x202 := by decide
/-- T22 and T23 -/
theorem test_key_index :
    (after (at200 0xE59E (State.reset.setV 5 0x10))).fault = .keyIndex ∧
    (after (at200 0xE5A1 (State.reset.setV 5 0xFF))).fault = .keyIndex := by decide
/-- T24 and T25, and the Step after T25, on the font bytes F0 90 -/
theorem test_pc_wraps :
    (after (State.reset.setPc 0xFFFE)).pc = 0x0000 ∧ (after (State.reset.setPc 0x0FFE)).pc = 0x1000 ∧
    (after (State.reset.setPc 0x1000)).pc = 0x1002 := by decide

/-! ### Arithmetic (section 1, S3, and section 3) -/

/-- LD V2, 05 with VF = 0x55 -/
theorem test_ldImm :
    let t := after (at200 0x6205 ((State.reset.setV 2 0x10).setV 0xF 0x55))
    t.v[(2 : Reg)] = 0x05 ∧ t.v[regF] = 0x55 := by decide
/-- no carry flag (R101) -/
theorem test_addImm_wraps :
    let t := after (at200 0x7201 ((State.reset.setV 2 0xFF).setV 0xF 0x55))
    t.v[(2 : Reg)] = 0x00 ∧ t.v[regF] = 0x55 := by decide
theorem test_ldReg : (after (at200 0x8010 (State.reset.setV 1 0x33))).v[(0 : Reg)] = 0x33 := by decide
theorem test_or :
    let t := after (at200 0x8011 (((State.reset.setV 0 0xF0).setV 1 0x0F).setV 0xF 0x55))
    t.v[(0 : Reg)] = 0xFF ∧ t.v[regF] = 0x55 := by decide
/-- OR VF, V1: the result is written to VF -/
theorem test_or_into_VF : (after (at200 0x8F11 ((State.reset.setV 1 0x0F).setV 0xF 0x55))).v[regF] = 0x5F := by decide
theorem test_and :
    let t := after (at200 0x8012 (((State.reset.setV 0 0xF3).setV 1 0x3F).setV 0xF 0x55))
    t.v[(0 : Reg)] = 0x33 ∧ t.v[regF] = 0x55 := by decide
theorem test_xor :
    let t := after (at200 0x8013 (((State.reset.setV 0 0xFF).setV 1 0x0F).setV 0xF 0x55))
    t.v[(0 : Reg)] = 0xF0 ∧ t.v[regF] = 0x55 := by decide
/-- ADD V0, VF reads VF's old value -/
theorem test_addReg_reads_old_VF :
    let t := after (at200 0x80F4 ((State.reset.setV 0 0x05).setV 0xF 0xFF))
    t.v[(0 : Reg)] = 0x04 ∧ t.v[regF] = 1 := by decide
/-- S3, row 0x7F, 0x01, and the row x = F -/
theorem test_addReg :
    (after (at200 0x8014 ((State.reset.setV 0 0x7F).setV 1 0x01))).v[(0 : Reg)] = 0x80 ∧
    (after (at200 0x8F14 ((State.reset.setV 0xF 0x10).setV 1 0x01))).v[regF] = 0x00 ∧
    (after (at200 0x8F14 ((resetResultWins.setV 0xF 0x10).setV 1 0x01))).v[regF] = 0x11 := by decide
/-- S3, row 0x03, 0x05 -/
theorem test_sub_borrow :
    let t := after (at200 0x8015 ((State.reset.setV 0 0x03).setV 1 0x05))
    t.v[(0 : Reg)] = 0xFE ∧ t.v[regF] = 0 := by decide
theorem test_sub_into_VF :
    (after (at200 0x8F15 ((State.reset.setV 0xF 0x05).setV 1 0x03))).v[regF] = 0x01 ∧
    (after (at200 0x8F15 ((resetResultWins.setV 0xF 0x03).setV 1 0x05))).v[regF] = 0xFE := by decide
/-- SHR V3, V7: Vy is ignored -/
theorem test_shr_ignores_y :
    let t := after (at200 0x8376 ((State.reset.setV 3 0x05).setV 7 0x99))
    t.v[(3 : Reg)] = 0x02 ∧ t.v[regF] = 1 ∧ t.v[(7 : Reg)] = 0x99 := by decide
theorem test_shr_into_VF :
    (after (at200 0x8F06 (State.reset.setV 0xF 0x05))).v[regF] = 0x01 ∧
    (after (at200 0x8F06 (resetResultWins.setV 0xF 0x04))).v[regF] = 0x02 := by decide
/-- S3, row 0x03, 0x05 -/
theorem test_subn :
    let t := after (at200 0x8017 ((State.reset.setV 0 0x03).setV 1 0x05))
    t.v[(0 : Reg)] = 0x02 ∧ t.v[regF] = 1 := by decide
theorem test_subn_into_VF :
    (after (at200 0x8F17 ((State.reset.setV 0xF 0x03).setV 1 0x05))).v[regF] = 0x01 ∧
    (after (at200 0x8F17 ((resetResultWins.setV 0xF 0x03).setV 1 0x05))).v[regF] = 0x02 := by decide
/-- SHL V3, V7: Vy is ignored -/
theorem test_shl_ignores_y :
    let t := after (at200 0x837E (State.reset.setV 3 0x81))
    t.v[(3 : Reg)] = 0x02 ∧ t.v[regF] = 1 ∧ t.v[(7 : Reg)] = 0x00 := by decide
theorem test_shl_into_VF :
    (after (at200 0x8F0E (State.reset.setV 0xF 0x40))).v[regF] = 0x00 ∧
    (after (at200 0x8F0E (resetResultWins.setV 0xF 0x40))).v[regF] = 0x80 := by decide
/-- C100 gives 0 for every random byte -/
theorem test_rnd_mask_zero : (after (at200 0xC100 (State.reset.setV 1 0x77))).v[(1 : Reg)] = 0 := by
  show Config.rnd 0 &&& 0#8 = 0#8
  exact BitVec.and_zero

/-! ### Display (section 4) -/

/-- The word DRW V0, V1, n with V0 = a, V1 = b. -/
def drawing (n : Nat) (a b : Byte) (s : State) : State := at200 (0xD010 + n) ((s.setV 0 a).setV 1 b)

/-- Pixel (0,0) lit. -/
def lit00 : State := State.reset.setDisp (Display.dark.toggle 0 0)

/-- DR1, in part: the top and the second row of glyph 0 -/
theorem test_drw_glyph0 :
    let t := after (drawing 5 0 0 State.reset)
    (List.finRange 64).filter (fun x => t.disp.pixel x 0) = [0, 1, 2, 3] ∧
    (List.finRange 64).filter (fun x => t.disp.pixel x 1) = [0, 3] ∧ t.v[regF] = 0 := by decide
/-- DR3 and DR4: a 1 on a lit pixel collides, a 0 does not -/
theorem test_drw_collision :
    let t := after (drawing 1 0 0 ((lit00.setI 0x300).memWrite 0x300 0xC0))
    let u := after (drawing 1 0 0 ((lit00.setI 0x300).memWrite 0x300 0x40))
    t.disp.pixel 0 0 = false ∧ t.disp.pixel 1 0 = true ∧ t.v[regF] = 1 ∧
    u.disp.pixel 0 0 = true ∧ u.disp.pixel 1 0 = true ∧ u.v[regF] = 0 := by decide
/-- DR5 and DR6: clipped on the right and below, not wrapped -/
theorem test_drw_clips :
    let t := after (drawing 1 63 0 ((lit00.setI 0x300).memWrite 0x300 0xC0))
    let u := after (drawing 2 0 31 (((lit00.setI 0x300).memWrite 0x300 0x80).memWrite 0x301 0x80))
    t.disp.pixel 63 0 = true ∧ t.disp.pixel 0 0 = true ∧ t.v[regF] = 0 ∧
    u.disp.pixel 0 31 = true ∧ u.disp.pixel 0 0 = true ∧ u.v[regF] = 0 := by decide
/-- DR10: the coordinates are read before VF is cleared -/
theorem test_drw_x_is_F :
    let t := after (at200 0xDF15 (State.reset.setV 0xF 0x0A))
    (List.finRange 64).filter (fun x => t.disp.pixel x 0) = [10, 11, 12, 13] ∧ t.v[regF] = 0 := by decide
/-- DR12: the sprite address wraps at the end of memory -/
theorem test_drw_sprite_wraps :
    let t := after (drawing 2 0 0 ((State.reset.setI 0xFFF).memWrite 0xFFF 0x80))
    (List.finRange 64).filter (fun x => t.disp.pixel x 0) = [0] ∧
    (List.finRange 64).filter (fun x => t.disp.pixel x 1) = [0, 1, 2, 3] ∧ t.i = 0xFFF := by decide
/-- R124 and R127 on the case in which R125's last clause differs (assumption log 9): the one pixel under a 1 bit is lit
before the first draw, which darkens it with VF = 1, so that the second draw meets no lit pixel and leaves VF = 0. -/
theorem test_drw_twice_on_lit :
    let t := after (drawing 1 0 0 ((lit00.setI 0x300).memWrite 0x300 0x80))
    let u := after (drawing 1 0 0 (t.setPc 0x200))
    t.disp.pixel 0 0 = false ∧ t.v[regF] = 1 ∧ u.disp.pixel 0 0 = true ∧ u.v[regF] = 0 := by decide
/-- DR14 -/
theorem test_cls :
    let t := after (at200 0x00E0 (lit00.setV 0xF 1))
    t.disp.pixel 0 0 = false ∧ t.v[regF] = 1 ∧ t.pc = 0x202 := by decide

/-! ### Index, memory transfer, timers, key wait (section 6) -/

/-- M1 -/
theorem test_ldI : (after (at200 0xA300 (State.reset.setI 0xFFFF))).i = 0x0300 := by decide
/-- M2 -/
theorem test_ldVxDt : (after (at200 0xF207 (State.reset.setDt 0x3C))).v[(2 : Reg)] = 0x3C := by decide
/-- M3 -/
theorem test_ldDtVx : (after (at200 0xF115 (State.reset.setV 1 0x3C))).dt = 0x3C := by decide
/-- M4 -/
theorem test_ldStVx : (after (at200 0xF118 (State.reset.setV 1 0x05))).st = 0x05 := by decide
/-- M6 -/
theorem test_addIVx_wraps :
    let t := after (at200 0xF01E ((State.reset.setI 0xFFFF).setV 0 1))
    t.i = 0x0000 ∧ t.v[regF] = 0 := by decide
/-- M7 -/
theorem test_addIVx : (after (at200 0xF01E ((State.reset.setI 0x0FFF).setV 0 1))).i = 0x1000 := by decide
/-- S7 -/
theorem test_ldFVx :
    (after (at200 0xF029 (State.reset.setV 0 0x05))).i = 0x0019 ∧
    (after (at200 0xF029 (State.reset.setV 0 0xFF))).i = 0x004B := by decide
/-- M8 -/
theorem test_ldBVx :
    let t := after (at200 0xF333 ((State.reset.setV 3 0x7B).setI 0x300))
    t.memRead 0x300 = 1 ∧ t.memRead 0x301 = 2 ∧ t.memRead 0x302 = 3 ∧ t.i = 0x300 := by decide
/-- M11 and M12: the wrap into the font, allowed and forbidden -/
theorem test_ldBVx_font :
    let t := after (at200 0xF333 ((State.reset.setV 3 0x09).setI 0xFFF))
    let u := after (at200 0xF333 ((resetFontFault.setV 3 0x09).setI 0xFFF))
    t.memRead 0x000 = 0 ∧ t.memRead 0x001 = 9 ∧ u.fault = .fontWrite ∧ u.memRead 0x000 = 0xF0 ∧ u.pc = 0x200 := by decide
/-- M16 -/
theorem test_ldMemVx_wraps :
    let t := after (at200 0xF255 ((((State.reset.setV 0 1).setV 1 2).setV 2 3).setI 0xFFE))
    t.memRead 0xFFE = 1 ∧ t.memRead 0xFFF = 2 ∧ t.memRead 0x000 = 3 ∧ t.i = 0xFFE := by decide
/-- M17 and M18: the edge of the font region -/
theorem test_ldMemVx_font :
    (after (at200 0xF255 (resetFontFault.setI 0x04E))).fault = .fontWrite ∧
    (after (at200 0xF255 (resetFontFault.setI 0x050))).fault = .none := by decide
/-- M19 -/
theorem test_ldVxMem :
    let t := after (at200 0xF265 ((((State.reset.setI 0x300).memWrite 0x300 1).memWrite 0x301 2).memWrite 0x302 3))
    t.v[(0 : Reg)] = 1 ∧ t.v[(1 : Reg)] = 2 ∧ t.v[(2 : Reg)] = 3 ∧ t.v[(3 : Reg)] = 0 ∧ t.i = 0x300 := by decide
/-- M21 and M22 -/
theorem test_ldVxK :
    let t := after (at200 0xF30A (pressing [5, 9] State.reset))
    let u := after (at200 0xF30A State.reset)
    t.v[(3 : Reg)] = 5 ∧ t.wait = none ∧ t.pc = 0x202 ∧ u.wait = some 3 ∧ u.pc = 0x200 := by decide
/-- M24 and M25: the wait under RESUME and under STALL -/
theorem test_key_wait :
    let t := after (pressing [0xC] (State.reset.setWait (some 3)))
    let u := after (pressing [0xC] (resetStall.setWait (some 3)))
    t.v[(3 : Reg)] = 0x0C ∧ t.wait = none ∧ t.pc = 0x202 ∧ u.wait = some 3 ∧ u.pc = 0x200 := by decide
/-- Section 2: 0x5121 at PC 0x300 -/
theorem test_unrecognized : (after (at200 0x5121 (State.reset.setPc 0x300))).pc = 0x302 := by decide

/-! ### Reset and the host operations (sections 1, 6 and 8) -/

/-- Section 8: the font after Init, and the vector of R20 -/
theorem test_reset :
    State.reset.memRead 0x000 = 0xF0 ∧ State.reset.memRead 0x001 = 0x90 ∧ State.reset.memRead 0x04F = 0x80 ∧
    State.reset.memRead 0x050 = 0 ∧ State.reset.pc = 0x200 ∧ State.reset.mem = [] := by decide
/-- S6: Reset keeps modified program memory and restores the font -/
theorem test_hostReset :
    let t := hostReset (((State.reset.memWrite 0x300 1).memWrite 0x000 0x55).setV 0 1)
    t.memRead 0x300 = 1 ∧ t.memRead 0x000 = 0xF0 ∧ t.v[(0 : Reg)] = 0 := by decide
/-- Section 8: SetKeys(0x0220) -/
theorem test_hostSetKeys :
    (List.finRange 16).filter (fun j => (hostSetKeys 0x0220 State.reset).key[j]) = [5, 9] := by decide
/-- Section 6, the timer vectors -/
theorem test_hostTick :
    (hostTick (State.reset.setDt 2)).dt = 1 ∧ (hostTick (State.reset.setSt 1)).st = 0 ∧
    (hostTick State.reset).dt = 0 ∧ (hostTick ((State.reset.setDt 5).setFault .stackOverflow)).dt = 4 := by decide
/-- Section 8: Load of 12 00 00 00 -/
theorem test_hostLoad :
    let t := hostLoad [0x12, 0x00, 0x00, 0x00] (State.reset.memWrite 0x202 7)
    t.memRead 0x200 = 0x12 ∧ t.memRead 0x202 = 0 ∧ t.pc = 0x200 := by decide
/-- Section 8: Save, a Step of 0x6009, Restore -/
theorem test_save_restore :
    let t := hostRestore (after (at200 0x6009 (hostSave (State.reset.setV 0 1))))
    t.v[(0 : Reg)] = 1 ∧ t.pc = 0x200 ∧ (t.ckpt.map (fun c => c.pc)) = some 0x200 := by decide
/-- The presentation state (R30), with the two constants given: a lit pixel snaps, a dark one falls to the floor -/
theorem test_ghost_decay :
    let t := driverGhostDecay 0xFF 0x10 (lit00.setGhost (Vector.replicate 32 (Vector.replicate 64 0x08)))
    t.ghost[(0 : Fin 32)][(0 : Fin 64)] = 0xFF ∧ t.ghost[(0 : Fin 32)][(1 : Fin 64)] = 0 := by decide

/-! ### Witnesses: for each obligation with hypotheses, a state and operands that meet them, clause by clause -/

/-- Full and empty stack, one call short of full, one call deep. -/
def stackOf (k : Fin 17) : State := State.reset.setSp k

/-- Blocked at 0x200 by F30A, and the same under STALL. -/
def blocked : State := (at200 0xF30A State.reset).setWait (some 3)
def blockedStall : State := (at200 0xF30A resetStall).setWait (some 3)

theorem witness_Running : Running State.reset := by
  unfold Running
  decide

theorem witness_MemoryCanonical : MemoryCanonical (at200 0xF333 State.reset) := by
  unfold MemoryCanonical
  decide

theorem witness_DecodeInvertsEncode :
    (Instr.sys 0x0DF).wellFormed = true ∧ (Instr.sys 0x0E1).wellFormed = true ∧ (Instr.drw 15 0 15).wellFormed = true := by
  decide

theorem witness_EncodeInvertsDecode : decode 0xFF65 = .op (.ldVxMem 15) ∧ decode 0x0000 = .op (.sys 0) := by decide

theorem witness_UnrecognizedWords :
    UnlistedWord 0x5121 ∧ UnlistedWord 0x812F ∧ UnlistedWord 0x912F ∧ UnlistedWord 0xE09F ∧ UnlistedWord 0xF066 ∧
    ¬ UnlistedWord 0x5120 ∧ ¬ UnlistedWord 0x812E ∧ ¬ UnlistedWord 0xE09E ∧ ¬ UnlistedWord 0xF065 := by
  unfold UnlistedWord
  refine ⟨?_, ?_, ?_, ?_, ?_, ?_, ?_, ?_, ?_⟩ <;> decide

theorem witness_StepRuns :
    let s := at200 0xF333 State.reset
    (s.fault = .none ∧ s.wait = none) ∧ decode (s.memRead s.pc ++ s.memRead (s.pc + 1)) = .op (.ldBVx 3) := by decide

/-- At the last byte of memory, so that the word wraps; the two other clauses' addresses are the neighbours. -/
theorem witness_StoredWord :
    let s := State.reset.setPc 0x0FFF
    Memory.wf (initByte s.params) s.mem ∧ decode 0xF333 = .op (.ldBVx 3) ∧
    memIndex 0x001 ≠ memIndex s.pc ∧ memIndex 0x001 ≠ memIndex (s.pc + 1) ∧ (s.withFetchWord 16 0xF333).memRead 0 = 0x33 := by
  decide

theorem witness_UnrecognizedWord :
    let s := at200 0x5121 State.reset
    Running s ∧ UnlistedWord (s.memRead s.pc ++ s.memRead (s.pc + 1)) := by
  unfold Running UnlistedWord
  decide

theorem witness_StalledKeyWait :
    blockedStall.wait = some 3 ∧ blockedStall.params.keywaitMode = .stall ∧
    (∃ t, step blockedStall = .next t) ∧ (∀ op ∈ [HostOp.setKeys 0x0220, .step, .tick, .save], ordinaryOp op = true) ∧
    (∃ t, HostOp.applyAll [HostOp.setKeys 0x0220, .step, .tick, .save] blockedStall = .next t) ∧
    (hostSave blockedStall).ckpt = some blockedStall.snapshot :=
  ⟨rfl, rfl, ⟨_, rfl⟩, by decide, ⟨_, rfl⟩, rfl⟩

theorem witness_ResumedKeyWait :
    blocked.fault = .none ∧ blocked.wait = some 3 ∧ blocked.params.keywaitMode = .resume ∧
    (∀ k : Reg, blocked.key[k] = false) := by decide

theorem witness_LeastPressed :
    LeastPressed (pressing [0xF] blocked) 15 ∧ LeastPressed (pressing [0, 0xF] blocked) 0 := by
  unfold LeastPressed
  decide

/-- A skip that is taken, one that is not, and an instruction that faults. -/
theorem witness_PcAdvances :
    let s := State.reset
    s.fault = .none ∧ (∃ t, exec (.seImm 0 0) s = .next t ∧ t.fault = .none) ∧ SkipHolds s (.seImm 0 0) ∧
    ¬ SkipHolds s (.sneImm 0 0) ∧ isTransfer (.seImm 0 0) = false ∧ ¬ Blocks s (.seImm 0 0) ∧
    ∃ t, exec .ret s = .next t ∧ t.fault ≠ .none := by
  refine ⟨rfl, ⟨_, rfl, rfl⟩, ?_, ?_, rfl, ?_, ⟨_, rfl, by decide⟩⟩
  · unfold SkipHolds; decide
  · unfold SkipHolds; decide
  · rintro ⟨⟨x, h⟩, _⟩
    cases h

theorem witness_StepLeavesTimers :
    (∃ t, step (at200 0xF115 (State.reset.setV 1 7)) = .next t ∧ t.dt ≠ (at200 0xF115 (State.reset.setV 1 7)).dt) ∧
    (∃ t, step (at200 0xF118 (State.reset.setV 1 7)) = .next t ∧ t.st ≠ (at200 0xF118 (State.reset.setV 1 7)).st) ∧
    ∀ x : Reg, (at200 0xF115 State.reset).fetchDecode ≠ .op (.ldVxDt x) :=
  ⟨⟨_, rfl, by decide⟩, ⟨_, rfl, by decide⟩, by decide⟩

/-- Not waiting and not at a key instruction; waiting under STALL. -/
theorem witness_StepReadsTheKeypad :
    (∃ t, step State.reset = .next t) ∧ State.reset.wait = none ∧
    (∀ x : Reg, State.reset.fetchDecode ≠ .op (.skp x) ∧ State.reset.fetchDecode ≠ .op (.sknp x) ∧
      State.reset.fetchDecode ≠ .op (.ldVxK x)) ∧
    blockedStall.wait ≠ none ∧ blockedStall.params.keywaitMode = .stall :=
  ⟨⟨_, rfl⟩, rfl, by decide, by decide, rfl⟩

/-- The invariant in a state where all of it says something: blocked at F30A, with that state saved. -/
theorem witness_Inv : Inv (hostSave blocked) ∧ ∃ t, step (hostSave blocked) = .next t := by
  have h : SnapshotInv (hostSave blocked).params blocked.snapshot := by
    unfold SnapshotInv
    decide
  refine ⟨⟨h, fun c hc => ?_⟩, ⟨_, rfl⟩⟩
  cases hc
  exact h

theorem witness_HostOperations :
    (∃ t, (HostOp.load [0x12, 0x00]).apply State.reset = .next t) ∧ State.reset.wait = none ∧
    ∃ t, HostOp.restore.apply (hostSave blocked) = .next t :=
  ⟨⟨_, rfl⟩, rfl, ⟨_, rfl⟩⟩

theorem witness_Frame :
    ∃ t, exec (.ldMemVx 15) (State.reset.setI 0x300) = .next t ∧ Part.i ∉ mayWriteParts (.ldMemVx 15) ∧
      (0 : Reg) ∉ mayWriteRegs (.ldMemVx 15) := ⟨_, rfl, by decide, by decide⟩

/-- Each fault at the edge of its condition, and the other side of the edge. -/
theorem witness_Raises :
    Raises (stackOf 16) (.call 0) .stackOverflow ∧ Raises (stackOf 0) .ret .stackUnderflow ∧
    Raises (State.reset.setV 5 16) (.skp 5) .keyIndex ∧ Raises (State.reset.setV 5 16) (.sknp 5) .keyIndex ∧
    (stackOf 16).fault = .none ∧ ¬ Raises (stackOf 15) (.call 0) .stackOverflow ∧
    ¬ Raises (stackOf 1) .ret .stackUnderflow ∧ ¬ Raises (State.reset.setV 5 15) (.skp 5) .keyIndex := by
  unfold Raises
  decide

theorem witness_Raises_fontWrite :
    Raises (resetFontFault.setI 0x04F) (.ldBVx 0) .fontWrite ∧ Raises (resetFontFault.setI 0xFFE) (.ldMemVx 2) .fontWrite ∧
    ¬ Raises (resetFontFault.setI 0x050) (.ldBVx 0) .fontWrite ∧ ¬ Raises (State.reset.setI 0x000) (.ldBVx 0) .fontWrite := by
  refine ⟨⟨rfl, rfl, 0, by decide, by decide⟩, ⟨rfl, rfl, 2, by decide, by decide⟩, ?_, ?_⟩
  · rintro ⟨_, _, k, hk, h⟩
    have hi : (resetFontFault.setI 0x050).i.toNat = 80 := rfl
    rw [hi] at h
    omega
  · rintro ⟨_, h, _⟩
    cases h

theorem witness_FaultsArePrecise : ∃ t, exec .ret (stackOf 0) = .next t ∧ t = (stackOf 0).setFault .stackUnderflow :=
  ⟨_, rfl, rfl⟩

theorem witness_FaultsAreSticky :
    let s := State.reset.setFault .keyIndex
    s.fault ≠ .none ∧ (∀ op ∈ [HostOp.step, .tick, .save, .restore], op ≠ .init ∧ op ≠ .reset) ∧
    ∃ t, HostOp.applyAll [HostOp.step, .tick, .save, .restore] s = .next t :=
  ⟨by decide, by decide, ⟨_, rfl⟩⟩

theorem witness_Call : (stackOf 15).sp.val < 16 ∧ (stackOf 0).sp.val < 16 ∧ (stackOf 16).sp.val = 16 := by decide

theorem witness_Ret : 0 < (stackOf 1).sp.val ∧ 0 < (stackOf 16).sp.val ∧ (stackOf 0).sp.val = 0 := by decide

theorem witness_RegisterSkips :
    (∃ x nn, Instr.seImm 3 0x10 = .seImm x nn ∨ Instr.seImm 3 0x10 = .sneImm x nn) ∧
    (∃ x y, Instr.sneReg 1 2 = .seReg x y ∨ Instr.sneReg 1 2 = .sneReg x y) ∧
    SkipHolds (State.reset.setV 3 0x10) (.seImm 3 0x10) ∧ ¬ SkipHolds State.reset (.seImm 3 0x10) := by
  refine ⟨⟨_, _, .inl rfl⟩, ⟨_, _, .inr rfl⟩, ?_, ?_⟩
  · unfold SkipHolds; decide
  · unfold SkipHolds; decide

theorem witness_KeySkips :
    (State.reset.setV 5 15).v[(5 : Reg)].toNat < 16 ∧ 16 ≤ (State.reset.setV 5 16).v[(5 : Reg)].toNat := by decide

/-- x ≠ F, and x = F under either policy. -/
theorem witness_FlagResult :
    (3 : Reg) ≠ 15 ∧ State.reset.params.xfPolicy = .flagWins ∧ resetResultWins.params.xfPolicy = .resultWins := by decide

theorem witness_FlagLaws : ((15 : Reg) = regF → State.reset.params.xfPolicy = .flagWins) ∧ (14 : Reg) ≠ regF := by decide

/-- A covered pixel at the corner of the screen, and one past the sprite's only lit column. -/
theorem witness_SpriteCovers :
    let s := ((State.reset.setV 0 63).setV 1 31).memWrite 0x000 0xFF
    SpriteCovers s 0 1 15 63 31 ∧ ¬ SpriteCovers s 0 1 15 62 31 := by
  constructor
  · exact ⟨0, 0, by decide, by decide, by decide, by decide, by decide⟩
  · rintro ⟨r, c, _, _, _, h, _⟩
    have hv : (((State.reset.setV 0 63).setV 1 31).memWrite 0x000 0xFF).v[(0 : Reg)].toNat = 63 := rfl
    have hp : (62 : Fin 64).val = 62 := rfl
    rw [hv, hp] at h
    omega

theorem witness_DrawingTwice : (0 : Reg) ≠ regF ∧ (14 : Reg) ≠ regF := by decide

/-- A draw at row 31 of two rows, in two memories that differ at the second row's byte, which is not drawn. -/
theorem witness_DrawReads :
    let s := (State.reset.setV 1 31).setI 0x300
    let m := (s.memWrite 0x301 0xFF).mem
    (∀ r : Nat, r < 2 → s.v[(1 : Reg)].toNat % 32 + r < 32 →
      (s.setMem m).memRead (byteAddr s.i r) = s.memRead (byteAddr s.i r)) ∧
    (s.setMem m).memRead 0x301 ≠ s.memRead 0x301 := by decide

theorem witness_LdK : LeastPressed (pressing [5, 9] State.reset) 5 ∧ ∀ k : Reg, State.reset.key[k] = false := by
  unfold LeastPressed
  decide

/-- A store that the font check lets pass and one it stops, at the edge; an address below and one above the block. -/
theorem witness_Stores :
    MemoryCanonical (resetFontFault.setI 0x050) ∧ ¬ FontForbids (resetFontFault.setI 0x050) 0x050 3 ∧
    FontForbids (resetFontFault.setI 0x04F) 0x04F 3 ∧ FontForbids (resetFontFault.setI 0xFFE) 0xFFE 3 ∧
    (∀ k < 3, memIndex 0x04F ≠ memIndex (byteAddr 0x050 k)) ∧ (∀ k < 3, memIndex 0x053 ≠ memIndex (byteAddr 0x050 k)) := by
  refine ⟨by unfold MemoryCanonical; decide, ?_, ⟨rfl, 0, by decide, by decide⟩, ⟨rfl, 2, by decide, by decide⟩,
    by decide, by decide⟩
  rintro ⟨_, k, hk, h⟩
  have hi : (0x050 : Word).toNat = 80 := rfl
  rw [hi] at h
  omega

theorem witness_LdFromMemory : (3 : Reg) ≤ 3 ∧ (0 : Reg) ≤ 3 ∧ (3 : Reg) < 4 := by decide

/-- The last byte of an image that is copied, the first that is not, and an address below the image. -/
theorem witness_Load :
    MemoryCanonical State.reset ∧ 0xDFF < (List.replicate 0xE01 (0x11 : Byte)).length ∧ 0xDFF < 0xE00 ∧
    (∀ k : Nat, k < 4 → k < 0xE00 → memIndex 0x1FF ≠ 0x200 + k) ∧ (∀ k : Nat, k < 4 → k < 0xE00 → memIndex 0x204 ≠ 0x200 + k) := by
  refine ⟨by unfold MemoryCanonical; decide, by rw [List.length_replicate]; decide, by decide, by decide, by decide⟩

theorem witness_Reset : 0x200 ≤ memIndex 0x200 ∧ 0x200 ≤ memIndex 0xFFF := by decide

/-- Each side of the edges 0x050 and 0x200. -/
theorem witness_InitAndReset :
    memIndex 0x04F < 80 ∧ 80 ≤ memIndex 0x050 ∧ memIndex 0x050 < 0x200 ∧ 80 ≤ memIndex 0x1FF ∧ memIndex 0x1FF < 0x200 ∧
    0x200 ≤ memIndex 0x200 ∧ 0x200 ≤ memIndex 0xFFF := by
  decide

theorem witness_Restore : State.reset.ckpt = none ∧ (hostSave State.reset).ckpt = some State.reset.snapshot := by
  exact ⟨rfl, rfl⟩

theorem witness_RestoreRewinds :
    (∀ op ∈ [HostOp.step, .load [1], .tick, .setKeys 3, .restore], op ≠ .save ∧ op ≠ .init ∧ op ≠ .reset) ∧
    ∃ t, HostOp.applyAll [HostOp.step, .load [1], .tick, .setKeys 3, .restore] (hostSave State.reset) = .next t :=
  ⟨by decide, ⟨_, rfl⟩⟩

theorem witness_SelfJump :
    let s := at200 0x1200 State.reset
    (s.fault = .none ∧ s.wait = none) ∧ s.fetchDecode = .op (.jp 0x200) ∧ s.pc.toNat = (0x200 : Addr).toNat := by decide

end Sys2Proof.Tests
end

/-! ### The step (spec/40_cycle.md R72, R77, R80, R81)

The parts of the state the host drives (keypad, timers, ghost grid, PAUSED, checkpoint slot) are gathered in `HostParts`.
One commutation theorem, `exec_withHostParts`, says through which instructions they reach an instruction's effect, and it
is lifted to a whole Step by `step_withHostParts`; the statements on R80 and R81 are read off that one. -/

namespace Sys2Proof.Machine

open Sys2Proof Sys2Proof.Safety

/-! #### Unrecognized words -/

theorem fieldN_eq_iff (w : Word) (n : Nibble) : fieldN w = n ↔ w.toNat % 16 = n.toNat := by
  rw [← fieldN_toNat, BitVec.toNat_inj]

theorem fieldNn_eq_iff (w : Word) (nn : Byte) : fieldNn w = nn ↔ w.toNat % 256 = nn.toNat := by
  rw [← fieldNn_toNat, BitVec.toNat_inj]

theorem decodeFamily8_unlisted {w : Word} (h : w.toNat % 16 ∈ [0x8, 0x9, 0xA, 0xB, 0xC, 0xD, 0xF]) :
    decodeFamily8 w = .unrecognized w := by
  have hne : ∀ n : Nibble, n.toNat ∉ [0x8, 0x9, 0xA, 0xB, 0xC, 0xD, 0xF] → fieldN w ≠ n :=
    fun n hn he => hn ((fieldN_eq_iff w n).mp he ▸ h)
  simp [decodeFamily8, hne]

theorem decodeFamilyE_unlisted {w : Word} (h : w.toNat % 256 ∉ [0x9E, 0xA1]) : decodeFamilyE w = .unrecognized w := by
  have hne : ∀ nn : Byte, nn.toNat ∈ [0x9E, 0xA1] → fieldNn w ≠ nn :=
    fun nn hn he => h ((fieldNn_eq_iff w nn).mp he ▸ hn)
  simp [decodeFamilyE, hne]

theorem decodeFamilyF_unlisted {w : Word}
    (h : w.toNat % 256 ∉ [0x07, 0x0A, 0x15, 0x18, 0x1E, 0x29, 0x33, 0x55, 0x65]) :
    decodeFamilyF w = .unrecognized w := by
  have hne : ∀ nn : Byte, nn.toNat ∈ [0x07, 0x0A, 0x15, 0x18, 0x1E, 0x29, 0x33, 0x55, 0x65] → fieldNn w ≠ nn :=
    fun nn hn he => h ((fieldNn_eq_iff w nn).mp he ▸ hn)
  simp [decodeFamilyF, hne]

/-- The decoder recognizes no word of the set of R63. -/
theorem decode_unlisted {w : Word} (h : UnlistedWord w) : decode w = .unrecognized w := by
  unfold decode
  rw [fieldFamily_toNat]
  rcases h with ⟨hf, hn⟩ | ⟨hf, hn⟩ | ⟨hf, hn⟩ | ⟨hf, hn⟩ | ⟨hf, hn⟩ <;> rw [hf]
  · exact if_neg fun he => hn ((fieldN_eq_iff w 0).mp he)
  · exact if_neg fun he => hn ((fieldN_eq_iff w 0).mp he)
  · exact decodeFamily8_unlisted hn
  · exact decodeFamilyE_unlisted hn
  · exact decodeFamilyF_unlisted hn

/-- Moving PC is in every frame. -/
theorem frame_setPc (regs : List Reg) (parts : List Part) (s : State) (a : Word) : Frame regs parts s (s.setPc a) :=
  ⟨fun _ _ => rfl, fun p _ => by cases p <;> simp [Part.Same]⟩

/-! #### The host-driven parts of the state -/

/-- What the host operations and the driver write and a program meets only through single instructions (R24, R25, R29 to
R31). -/
structure HostParts where
  key : Vector Bool 16
  dt : Byte
  st : Byte
  ghost : Ghost
  paused : Bool
  ckpt : Option Snapshot

/-- The host-driven parts of a state. -/
def State.hostParts (s : State) : HostParts :=
  { key := s.key, dt := s.dt, st := s.st, ghost := s.ghost, paused := s.paused, ckpt := s.ckpt }

/-- The state with other host-driven parts. -/
def State.withHostParts (s : State) (h : HostParts) : State :=
  { s with key := h.key, dt := h.dt, st := h.st, ghost := h.ghost, paused := h.paused, ckpt := h.ckpt }

@[simp] theorem State.withHostParts_hostParts (s : State) : s.withHostParts s.hostParts = s := rfl

@[simp] theorem State.hostParts_withHostParts (s : State) (h : HostParts) : (s.withHostParts h).hostParts = h := rfl

/-- DT after the instruction `o` (`none`: no instruction), when it was `d`: only Fx15 writes it (R24). -/
def dtAfter (s : State) : Option Instr → Byte → Byte
  | some (.ldDtVx x), _ => s.v[x]
  | _, d => d

/-- ST after the instruction `o` (`none`: no instruction), when it was `d`: only Fx18 writes it (R24). -/
def stAfter (s : State) : Option Instr → Byte → Byte
  | some (.ldStVx x), _ => s.v[x]
  | _, d => d

/-- The host-driven parts after the instruction `o`: nothing but the timers can have changed. -/
def HostParts.after (h : HostParts) (s : State) (o : Option Instr) : HostParts :=
  { h with dt := dtAfter s o h.dt, st := stAfter s o h.st }

theorem dtAfter_changed {s : State} {o : Option Instr} {d : Byte} (h : dtAfter s o d ≠ d) :
    ∃ x, o = some (.ldDtVx x) ∧ dtAfter s o d = s.v[x] := by
  unfold dtAfter at h ⊢
  split at h
  · exact ⟨_, rfl, rfl⟩
  · exact absurd rfl h

theorem stAfter_changed {s : State} {o : Option Instr} {d : Byte} (h : stAfter s o d ≠ d) :
    ∃ x, o = some (.ldStVx x) ∧ stAfter s o d = s.v[x] := by
  unfold stAfter at h ⊢
  split at h
  · exact ⟨_, rfl, rfl⟩
  · exact absurd rfl h

/-- The instructions that read the keypad (R81). -/
def readsKey : Instr → Bool
  | .skp _ | .sknp _ | .ldVxK _ => true
  | _ => false

/-- The instruction that reads DT (R130). -/
def readsDt : Instr → Bool
  | .ldVxDt _ => true
  | _ => false

theorem readsKey_eq_true {i : Instr} (h : readsKey i = true) : ∃ x, i = .skp x ∨ i = .sknp x ∨ i = .ldVxK x := by
  cases i with
  | skp x => exact ⟨x, .inl rfl⟩
  | sknp x => exact ⟨x, .inr (.inl rfl)⟩
  | ldVxK x => exact ⟨x, .inr (.inr rfl)⟩
  | _ => cases h

theorem readsDt_eq_true {i : Instr} (h : readsDt i = true) : ∃ x, i = .ldVxDt x := by
  cases i with
  | ldVxDt x => exact ⟨x, rfl⟩
  | _ => cases h

/-! #### The shared operations under other host-driven parts -/

theorem writeBack_withHostParts (x : Reg) (o : AluOut) (s : State) (h : HostParts) :
    writeBack x o (s.withHostParts h) = (writeBack x o s).withHostParts h := by
  rcases writeBack_cases x o s with ⟨hf, hw⟩ | ⟨f, hf, hx, hw⟩ | ⟨f, hf, rfl, hp, hw⟩ | ⟨f, hf, rfl, hp, hw⟩ <;> rw [hw]
  · exact writeBack_unflagged _ hf
  · exact writeBack_flagged _ hf hx
  · exact writeBack_flagWins hf hp
  · exact writeBack_resultWins hf hp

theorem execAlu_withHostParts (op : AluOp) (x : Reg) (b : Byte) {s t : State} (h : HostParts)
    (ht : execAlu op x b s = .next t) : execAlu op x b (s.withHostParts h) = .next (t.withHostParts h) := by
  cases ht
  exact congrArg (fun u : State => (.next u.advance : Result)) (writeBack_withHostParts x (alu op (s.getV x) b) s h)

theorem writeBytesFrom_withHostParts (base : Word) (k : Nat) (bs : List Byte) (s : State) (h : HostParts) :
    State.writeBytesFrom base k bs (s.withHostParts h) = (State.writeBytesFrom base k bs s).withHostParts h := by
  induction bs generalizing k s with
  | nil => rfl
  | cons b bs ih => exact ih (k + 1) (s.memWrite (byteAddr base k) b)

theorem storeBlock_withHostParts (bs : List Byte) {s t : State} (h : HostParts) (ht : storeBlock bs s = .next t) :
    storeBlock bs (s.withHostParts h) = .next (t.withHostParts h) := by
  rcases storeBlock_cases bs s with ⟨hf, hs⟩ | ⟨hf, hs⟩ <;> rw [hs] at ht <;> cases ht
  · exact if_pos hf
  · refine (if_neg (by rw [Bool.not_eq_true]; exact hf)).trans ?_
    exact congrArg (fun u : State => (.next u.advance : Result)) (writeBytesFrom_withHostParts s.i 0 bs s h)

theorem execCall_withHostParts (nnn : Addr) {s t : State} (h : HostParts) (ht : execCall nnn s = .next t) :
    execCall nnn (s.withHostParts h) = .next (t.withHostParts h) := by
  by_cases hsp : s.sp.val < 16
  · rw [execCall_room nnn hsp] at ht
    cases ht
    exact execCall_room nnn (s := s.withHostParts h) hsp
  · have hfull : s.sp.val = 16 := by omega
    rw [execCall_full nnn hfull] at ht
    cases ht
    exact execCall_full nnn (s := s.withHostParts h) hfull

theorem execRet_withHostParts {s t : State} (h : HostParts) (ht : execRet s = .next t) :
    execRet (s.withHostParts h) = .next (t.withHostParts h) := by
  by_cases hsp : s.sp.val = 0
  · rw [execRet_empty hsp] at ht
    cases ht
    exact execRet_empty (s := s.withHostParts h) hsp
  · rw [execRet_pop hsp] at ht
    cases ht
    exact execRet_pop (s := s.withHostParts h) hsp

theorem leastKey_withHostParts {s : State} {h : HostParts} (hkey : h.key = s.key) :
    leastKey (s.withHostParts h).key = leastKey s.key :=
  congrArg leastKey hkey

theorem keySkip_withHostParts (x : Reg) (level : Bool) {s t : State} {h : HostParts} (hkey : h.key = s.key)
    (ht : keySkip x level s = .next t) : keySkip x level (s.withHostParts h) = .next (t.withHostParts h) := by
  by_cases hv : s.v[x].toNat < 16
  · rw [keySkip_key level hv] at ht
    cases ht
    rw [← hkey]
    exact keySkip_key level (s := s.withHostParts h) hv
  · rw [keySkip_noKey level (by omega)] at ht
    cases ht
    exact keySkip_noKey level (s := s.withHostParts h) (show 16 ≤ s.v[x].toNat by omega)

theorem execLdVxK_withHostParts (x : Reg) {s t : State} {h : HostParts} (hkey : h.key = s.key)
    (ht : execLdVxK x s = .next t) : execLdVxK x (s.withHostParts h) = .next (t.withHostParts h) := by
  cases hk : leastKey s.key with
  | some k =>
    rw [execLdVxK_key x hk] at ht
    cases ht
    exact execLdVxK_key x ((leastKey_withHostParts hkey).trans hk)
  | none =>
    rw [execLdVxK_block x hk] at ht
    cases ht
    exact execLdVxK_block x ((leastKey_withHostParts hkey).trans hk)

/-! #### The key wait, outcome by outcome -/

theorem keyWaitStep_stall (x : Reg) {s : State} (h : s.params.keywaitMode = .stall) : keyWaitStep x s = .next s := by
  simp only [keyWaitStep, h]

theorem keyWaitStep_noKey (x : Reg) {s : State} (h : leastKey s.key = none) : keyWaitStep x s = .next s := by
  cases hm : s.params.keywaitMode with
  | stall => exact keyWaitStep_stall x hm
  | resume => simp only [keyWaitStep, hm, h]

theorem keyWaitStep_key (x : Reg) {s : State} {k : Reg} (hm : s.params.keywaitMode = .resume)
    (h : leastKey s.key = some k) : keyWaitStep x s = .next (s.resolveWait x k) := by
  simp only [keyWaitStep, hm, h]

/-- A Step in the key wait reads the keypad only under RESUME (R72, R73). -/
theorem keyWaitStep_withHostParts (x : Reg) {s t : State} {h : HostParts}
    (hkey : s.params.keywaitMode = .resume → h.key = s.key) (ht : keyWaitStep x s = .next t) :
    keyWaitStep x (s.withHostParts h) = .next (t.withHostParts h) := by
  cases hm : s.params.keywaitMode with
  | stall =>
    rw [keyWaitStep_stall x hm] at ht
    cases ht
    exact keyWaitStep_stall x (s := s.withHostParts h) hm
  | resume =>
    have hleast := leastKey_withHostParts (hkey hm)
    rcases keyWaitStep_cases x s with ⟨hs, hno⟩ | ⟨k, -, hk, hs⟩ <;> rw [hs] at ht <;> cases ht
    · have hk : leastKey s.key = none := hno.resolve_left (by simp [hm])
      exact keyWaitStep_noKey x (hleast.trans hk)
    · exact keyWaitStep_key x (s := s.withHostParts h) hm (hleast.trans hk)

/-- A Step in the key wait does not read memory (R72). -/
theorem keyWaitStep_setMem (x : Reg) {s t : State} (m : Memory) (ht : keyWaitStep x s = .next t) :
    keyWaitStep x (s.setMem m) = .next (t.setMem m) := by
  rcases keyWaitStep_cases x s with ⟨hs, hstall | hk⟩ | ⟨k, hm, hk, hs⟩ <;> rw [hs] at ht <;> cases ht
  · exact keyWaitStep_stall x (s := s.setMem m) hstall
  · exact keyWaitStep_noKey x (s := s.setMem m) hk
  · exact keyWaitStep_key x (s := s.setMem m) hm hk

/-! #### One instruction, one Step -/

/-- An instruction does the same whatever the host-driven parts hold, but for those it reads; of these parts it writes
only the timers, by Fx15 and Fx18. -/
theorem exec_withHostParts (i : Instr) {s t : State} {h : HostParts} (hkey : readsKey i = true → h.key = s.key)
    (hdt : readsDt i = true → h.dt = s.dt) (ht : exec i s = .next t) :
    exec i (s.withHostParts h) = .next (t.withHostParts (h.after s (some i))) := by
  cases i with
  | ldImm x nn => exact execAlu_withHostParts .mov x nn h ht
  | addImm x nn => exact execAlu_withHostParts .addnf x nn h ht
  | ldReg x y => exact execAlu_withHostParts .mov x (s.getV y) h ht
  | orReg x y => exact execAlu_withHostParts .or x (s.getV y) h ht
  | andReg x y => exact execAlu_withHostParts .and x (s.getV y) h ht
  | xorReg x y => exact execAlu_withHostParts .xor x (s.getV y) h ht
  | addReg x y => exact execAlu_withHostParts .add x (s.getV y) h ht
  | subReg x y => exact execAlu_withHostParts .sub x (s.getV y) h ht
  | shr x y => exact execAlu_withHostParts .shr x 0 h ht
  | subnReg x y => exact execAlu_withHostParts .subn x (s.getV y) h ht
  | shl x y => exact execAlu_withHostParts .shl x 0 h ht
  | call nnn => exact execCall_withHostParts nnn h ht
  | ret => exact execRet_withHostParts h ht
  | skp x => exact keySkip_withHostParts x true (hkey rfl) ht
  | sknp x => exact keySkip_withHostParts x false (hkey rfl) ht
  | ldVxK x => exact execLdVxK_withHostParts x (hkey rfl) ht
  | ldBVx x => exact storeBlock_withHostParts (decimalDigits (s.getV x)) h ht
  | ldMemVx x => exact storeBlock_withHostParts (s.regsUpTo x) h ht
  | ldVxDt x =>
    cases ht
    exact congrArg (fun d => (.next ((s.setV x d).advance.withHostParts h) : Result)) (hdt rfl)
  | sys _ | cls | jp _ | seImm _ _ | sneImm _ _ | seReg _ _ | sneReg _ _ | ldI _ | jpV0 _ | rnd _ _ | drw _ _ _
  | ldDtVx _ | ldStVx _ | addIVx _ | ldFVx _ | ldVxMem _ =>
    cases ht
    rfl

/-- The instruction a Step of `s` executes, if it executes one: none with a fault recorded, in the key wait, or at an
unrecognized word (R70). -/
def State.executes (s : State) : Option Instr :=
  if s.fault = .none ∧ s.wait = none then
    match s.fetchDecode with
    | .op i => some i
    | .unrecognized _ => none
  else none

theorem executes_eq_some_iff (s : State) (i : Instr) :
    s.executes = some i ↔ Running s ∧ s.fetchDecode = .op i := by
  unfold State.executes Running
  split
  · cases s.fetchDecode <;> simp_all
  · simp_all

theorem executes_faulted {s : State} (h : s.fault ≠ .none) : s.executes = none := if_neg fun hr => h hr.1

theorem executes_waiting {s : State} {x : Reg} (h : s.wait = some x) : s.executes = none :=
  if_neg fun hr => by simp [h] at hr

theorem executes_unrecognized {s : State} {w : Word} (h : s.fetchDecode = .unrecognized w) : s.executes = none := by
  simp [State.executes, h]

/-- A Step does the same whatever the host-driven parts hold, but for the keypad in a key instruction or a key wait under
RESUME and for DT in Fx07; of these parts it writes only the timers (R80, R81). -/
theorem step_withHostParts {s t : State} {h : HostParts}
    (hkey : ∀ i, s.executes = some i → readsKey i = true → h.key = s.key)
    (hwait : s.wait ≠ none → s.params.keywaitMode = .resume → h.key = s.key)
    (hdt : ∀ i, s.executes = some i → readsDt i = true → h.dt = s.dt) (ht : step s = .next t) :
    step (s.withHostParts h) = .next (t.withHostParts (h.after s s.executes)) := by
  have hfetch : (s.withHostParts h).fetchDecode = s.fetchDecode := fetchDecode_congr rfl rfl rfl
  rcases step_cases s with ⟨hf, hs⟩ | ⟨x, hf, hw, hs⟩ | ⟨i, hf, hw, hd, hs⟩ | ⟨w, hf, hw, hd, hs⟩ <;> rw [hs] at ht
  · cases ht
    rw [executes_faulted hf]
    exact step_faulted (s := s.withHostParts h) hf
  · rw [executes_waiting hw]
    exact (step_waiting (s := s.withHostParts h) hf hw).trans
      (keyWaitStep_withHostParts x (hwait (by simp [hw])) ht)
  · have he : s.executes = some i := (executes_eq_some_iff s i).mpr ⟨⟨hf, hw⟩, hd⟩
    rw [he]
    exact (step_exec (s := s.withHostParts h) hf hw (hfetch.trans hd)).trans
      (exec_withHostParts i (hkey i he) (hdt i he) ht)
  · cases ht
    rw [executes_unrecognized hd]
    exact step_unrecognized (s := s.withHostParts h) hf hw (hfetch.trans hd)

/-- What a Step makes of the host-driven parts. -/
theorem step_hostParts {s t : State} (ht : step s = .next t) : t.hostParts = s.hostParts.after s s.executes := by
  have hself := step_withHostParts (h := s.hostParts) (fun _ _ _ => rfl) (fun _ _ => rfl) (fun _ _ _ => rfl) ht
  rw [State.withHostParts_hostParts, ht] at hself
  exact congrArg State.hostParts (Host.Outcome.next.inj hself)

/-- Only Fx15 changes DT. -/
theorem step_dt_changed {s t : State} (ht : step s = .next t) (hne : t.dt ≠ s.dt) :
    ∃ x, Running s ∧ s.fetchDecode = .op (.ldDtVx x) ∧ t.dt = s.v[x] := by
  have hdt : t.dt = dtAfter s s.executes s.dt := congrArg HostParts.dt (step_hostParts ht)
  rw [hdt] at hne ⊢
  obtain ⟨x, he, hx⟩ := dtAfter_changed hne
  obtain ⟨hrun, hd⟩ := (executes_eq_some_iff s _).mp he
  exact ⟨x, hrun, hd, hx⟩

/-- Only Fx18 changes ST. -/
theorem step_st_changed {s t : State} (ht : step s = .next t) (hne : t.st ≠ s.st) :
    ∃ x, Running s ∧ s.fetchDecode = .op (.ldStVx x) ∧ t.st = s.v[x] := by
  have hst : t.st = stAfter s s.executes s.st := congrArg HostParts.st (step_hostParts ht)
  rw [hst] at hne ⊢
  obtain ⟨x, he, hx⟩ := stAfter_changed hne
  obtain ⟨hrun, hd⟩ := (executes_eq_some_iff s _).mp he
  exact ⟨x, hrun, hd, hx⟩

/-! #### Sequences of host operations -/

/-- A machine one step of which changes nothing stays where it is. -/
theorem run_of_step_self (M : Host.Core) {s : M.State} (h : M.step s = .next s) (n : Nat) : M.run n s = .next s := by
  induction n with
  | zero => rfl
  | succ n ih => simp only [Host.Core.run, h, ih]

theorem applyAll_cons {op : HostOp} {ops : List HostOp} {s u : State} (h : HostOp.applyAll (op :: ops) s = .next u) :
    ∃ t, op.apply s = .next t ∧ HostOp.applyAll ops t = .next u := by
  cases ha : op.apply s with
  | next t => exact ⟨t, rfl, by simpa [HostOp.applyAll, ha] using h⟩
  | fault r => simp [HostOp.applyAll, ha] at h
  | refused r => simp [HostOp.applyAll, ha] at h

/-- What every operation of a kind keeps, every sequence of such operations keeps. -/
theorem applyAll_keeps {P : State → Prop} {allowed : HostOp → Prop}
    (hop : ∀ (op : HostOp) (s t : State), allowed op → P s → op.apply s = .next t → P t) {ops : List HostOp}
    {s t : State} (hops : ∀ op ∈ ops, allowed op) (hs : P s) (ht : HostOp.applyAll ops s = .next t) : P t := by
  induction ops generalizing s with
  | nil =>
    cases ht
    exact hs
  | cons op ops ih =>
    obtain ⟨u, hu, hrest⟩ := applyAll_cons ht
    rw [List.forall_mem_cons] at hops
    exact ih hops.2 (hop op s u hops.1 hs hu) hrest

/-- In `t` the machine waits as in `s`, on the same parameters, and the program has come no further. -/
structure SameProgress (s t : State) : Prop where
  wait : t.wait = s.wait
  params : t.params = s.params
  pc : t.pc = s.pc
  v : t.v = s.v
  i : t.i = s.i
  stack : t.stack = s.stack
  sp : t.sp = s.sp
  disp : t.disp = s.disp

theorem SameProgress.refl (s : State) : SameProgress s s := ⟨rfl, rfl, rfl, rfl, rfl, rfl, rfl, rfl⟩

theorem SameProgress.trans {s t u : State} (h : SameProgress s t) (k : SameProgress t u) : SameProgress s u :=
  ⟨k.wait.trans h.wait, k.params.trans h.params, k.pc.trans h.pc, k.v.trans h.v, k.i.trans h.i, k.stack.trans h.stack,
    k.sp.trans h.sp, k.disp.trans h.disp⟩

/-- A Step in the key wait under STALL changes nothing (R72), whether or not a fault is recorded. -/
theorem step_stalled {s : State} {x : Reg} (hw : s.wait = some x) (hm : s.params.keywaitMode = .stall) :
    step s = .next s := by
  by_cases hf : s.fault = .none
  · rw [step_waiting hf hw, keyWaitStep_stall x hm]
  · exact step_faulted hf

theorem ordinaryOp_stalled {op : HostOp} {s t : State} {x : Reg} (hw : s.wait = some x)
    (hm : s.params.keywaitMode = .stall) (ho : ordinaryOp op = true) (ht : op.apply s = .next t) :
    SameProgress s t := by
  cases op with
  | load image =>
    obtain ⟨m, hload⟩ := writeBytes_eq_setMem s (BitVec.ofNat 16 progBase) (image.take progCapacity)
    cases ht
    constructor <;> simp [hostLoad, hload]
  | step =>
    have hs : t = s := Host.Outcome.next.inj (ht.symm.trans (step_stalled hw hm))
    exact hs ▸ .refl s
  | setKeys k =>
    cases ht
    constructor <;> simp [hostSetKeys]
  | tick =>
    cases ht
    constructor <;> simp [hostTick]
  | save =>
    cases ht
    constructor <;> simp [hostSave]
  | init | reset | restore => cases ho

theorem ordinaryOps_stalled {ops : List HostOp} {s t : State} {x : Reg} (hw : s.wait = some x)
    (hm : s.params.keywaitMode = .stall) (ho : ∀ op ∈ ops, ordinaryOp op = true)
    (ht : HostOp.applyAll ops s = .next t) : SameProgress s t :=
  applyAll_keeps (P := SameProgress s) (allowed := fun op => ordinaryOp op = true)
    (fun _ _ _ hop hs hu => hs.trans (ordinaryOp_stalled (hs.wait.trans hw) (by rw [hs.params, hm]) hop hu))
    ho (.refl s) ht

/-- A Step with WAIT non-empty does not depend on memory (R72): with a fault recorded it does nothing. -/
theorem step_setMem_of_waiting {s t : State} {x : Reg} (hw : s.wait = some x) (m : Memory) (ht : step s = .next t) :
    step (s.setMem m) = .next (t.setMem m) := by
  by_cases hf : s.fault = .none
  · rw [step_waiting hf hw] at ht
    exact (step_waiting (s := s.setMem m) hf hw).trans (keyWaitStep_setMem x m ht)
  · rw [step_faulted hf] at ht
    cases ht
    exact step_faulted (s := s.setMem m) hf

/-! #### The obligations -/

/-- Settles O8: the decoder answers UNRECOGNIZED on the set of R63, and the Step then only advances. -/
theorem unrecognizedWordOnlyAdvancesPc : Obligations.UnrecognizedWordOnlyAdvancesPc := by
  rintro s ⟨hf, hw⟩ hun
  refine ⟨s.advance, step_unrecognized hf hw (decode_unlisted hun), ?_, frame_setPc [] [] s _⟩
  rw [State.advance_pc, BitVec.toNat_add]
  rfl

/-- Settles O9: a stalled Step is the identity, and no ordinary host operation touches what the program has reached. -/
theorem stalledKeyWaitMakesNoProgress : Obligations.StalledKeyWaitMakesNoProgress := by
  intro s x hw
  refine ⟨fun m t ht => step_setMem_of_waiting hw m ht,
    fun hm => ⟨run_of_step_self core (step_stalled hw hm), ?_⟩, rfl, rfl, ?_⟩
  · intro ops t ho ht
    obtain ⟨hwait, -, hpc, hv, hi, hstack, hsp, hdisp⟩ := ordinaryOps_stalled hw hm ho ht
    exact ⟨hwait.trans hw, hpc, hv, hi, hstack, hsp, hdisp⟩
  · intro c hc
    simp only [hostRestore, hc, State.withSnapshot_wait]

/-- Settles O12, by `step_withHostParts` with other GHOST, PAUSED and CKPT, and then with another DT. -/
theorem stepLeavesTimersAndHostStateAlone : Obligations.StepLeavesTimersAndHostStateAlone := by
  intro s t ht
  have hparts := step_hostParts ht
  refine ⟨⟨congrArg HostParts.ghost hparts, congrArg HostParts.paused hparts, congrArg HostParts.ckpt hparts⟩,
    fun g p c => ?_, step_dt_changed ht, step_st_changed ht, fun d hread => ⟨dtAfter s s.executes d, ?_⟩⟩
  · have hafter : HostParts.after { s.hostParts with ghost := g, paused := p, ckpt := c } s s.executes =
        { t.hostParts with ghost := g, paused := p, ckpt := c } := by
      rw [hparts]
      rfl
    have hstep := step_withHostParts (h := { s.hostParts with ghost := g, paused := p, ckpt := c })
      (fun _ _ _ => rfl) (fun _ _ => rfl) (fun _ _ _ => rfl) ht
    rw [hafter] at hstep
    exact hstep
  · have hafter : HostParts.after { s.hostParts with dt := d } s s.executes =
        { t.hostParts with dt := dtAfter s s.executes d } := by
      rw [hparts]
      rfl
    have hnot : ∀ i, s.executes = some i → readsDt i = true → d = s.dt := fun i he hi => by
      obtain ⟨x, rfl⟩ := readsDt_eq_true hi
      exact absurd ((executes_eq_some_iff s _).mp he).2 (hread x)
    have hstep := step_withHostParts (h := { s.hostParts with dt := d })
      (fun _ _ _ => rfl) (fun _ _ => rfl) hnot ht
    rw [hafter] at hstep
    exact hstep

/-- Settles O13, by `step_withHostParts` with another keypad. -/
theorem stepReadsTheKeypadOnlyInKeyInstructions : Obligations.StepReadsTheKeypadOnlyInKeyInstructions := by
  intro s t ht
  have hparts := step_hostParts ht
  refine ⟨congrArg HostParts.key hparts, fun k hinstr hstall => ?_⟩
  have hafter : HostParts.after { s.hostParts with key := k } s s.executes = { t.hostParts with key := k } := by
    rw [hparts]
    rfl
  have hexec : ∀ i, s.executes = some i → readsKey i = true → k = s.key := fun i he hi => by
    obtain ⟨⟨-, hw⟩, hd⟩ := (executes_eq_some_iff s i).mp he
    obtain ⟨x, hx⟩ := readsKey_eq_true hi
    obtain ⟨hskp, hsknp, hldVxK⟩ := hinstr hw x
    rcases hx with rfl | rfl | rfl
    · exact absurd hd hskp
    · exact absurd hd hsknp
    · exact absurd hd hldVxK
  have hwait : s.wait ≠ none → s.params.keywaitMode = .resume → k = s.key := fun hw hm => by
    simp [hstall hw] at hm
  have hstep := step_withHostParts (h := { s.hostParts with key := k })
    hexec hwait (fun _ _ _ => rfl) ht
  rw [hafter] at hstep
  exact hstep

end Sys2Proof.Machine

/-! ### Control transfer (spec/41_control.md R90, R95) -/

namespace Sys2Proof.Machine

open Sys2Proof Sys2Proof.Safety

theorem decode_wordNnn_jpV0 (nnn : Addr) : decode (wordNnn 0xB nnn) = .op (.jpV0 nnn) := by
  simp [decode]

/-- The target of JP V0 at full width: at most 0xFFF + 0xFF, so the 16-bit addition does not wrap (R90). -/
theorem zextAddr_add_zextByte_toNat (nnn : Addr) (b : Byte) :
    (zextAddr nnn + zextByte b).toNat = nnn.toNat + b.toNat := by
  have := nnn.isLt
  have := b.isLt
  simp only [zextAddr, zextByte, BitVec.toNat_add, BitVec.toNat_setWidth]
  omega

theorem memIndex_add_one (a : Word) : memIndex (a + 1) = (a.toNat + 1) % 4096 := memIndex_byteAddr a 1

/-- Each of the two fetched bytes is read at its own address modulo 4096 (R42, R74). -/
theorem fetchWord_eq_read (s : State) :
    s.fetchWord = Memory.read (initByte s.params) s.mem (s.pc.toNat % 4096) ++
      Memory.read (initByte s.params) s.mem ((s.pc.toNat + 1) % 4096) := by
  rw [← memIndex_add_one]
  rfl

/-- Settles O23: the next state is `s` with PC at the target, which the addition of R90 forms without wrapping. -/
theorem jumpWithV0AddsV0 : Obligations.JumpWithV0AddsV0 := by
  intro nnn s
  have htarget := zextAddr_add_zextByte_toNat nnn (s.getV 0)
  refine ⟨decode_wordNnn_jpV0 nnn, _, rfl, htarget, frame_setPc [] [] s _, ?_⟩
  rw [fetchWord_eq_read, State.setPc_pc, htarget]
  rfl

/-- Settles O26: RET pops the slot that CALL has just written. -/
theorem callThenReturnComesBack : Obligations.CallThenReturnComesBack := by
  intro nnn s h
  have hslot : (s.stack.set s.sp.val s.pc)[s.sp.val] = s.pc := Vector.getElem_set_self h
  exact ⟨_, _, execCall_room nnn h, execRet_pop (Nat.succ_ne_zero s.sp.val), congrArg (· + 2) hslot, Fin.ext rfl⟩

end Sys2Proof.Machine

/-! ### Flag-writing arithmetic (spec/42_alu.md R99, R106 to R110, R114)

ADD, SUB, SHR, SUBN and SHL are one execution, `execAlu`, at five operations of the flag unit. What it leaves behind is
proved once, `completesFlagged_of_execAlu`, from the operation's result and flag as numbers; R106 to R110 apply it five
times, and R114 reads VF off these. -/

namespace Sys2Proof.Machine

open Sys2Proof Sys2Proof.Safety

/-! #### Encodings -/

/-- The word of family 8 whose low nibble selects a flag-writing operation decodes to it, x and y included (R57, R59). -/
theorem decode_wordXyn_flagged (x y : Reg) :
    decode (wordXyn 0x8 x y 0x4) = .op (.addReg x y) ∧ decode (wordXyn 0x8 x y 0x5) = .op (.subReg x y) ∧
    decode (wordXyn 0x8 x y 0x6) = .op (.shr x y) ∧ decode (wordXyn 0x8 x y 0x7) = .op (.subnReg x y) ∧
    decode (wordXyn 0x8 x y 0xE) = .op (.shl x y) := by
  have hfamily (n : Nibble) : decode (wordXyn 0x8 x y n) = decodeFamily8 (wordXyn 0x8 x y n) := by
    simp [decode]
  simp only [hfamily]
  simp [decodeFamily8]

/-! #### The flags of the unit, as numbers (R98) -/

theorem alu_add_flag (a b : Byte) : (alu .add a b).flag = some (decide (a.toNat + b.toNat > 255)) := rfl

theorem alu_sub_flag (a b : Byte) : (alu .sub a b).flag = some (decide (a.toNat ≥ b.toNat)) := rfl

theorem alu_subn_flag (a b : Byte) : (alu .subn a b).flag = some (decide (b.toNat ≥ a.toNat)) := rfl

theorem alu_shr_flag (a b : Byte) : (alu .shr a b).flag = some (decide (a.toNat % 2 = 1)) :=
  congrArg some (byte_bit0 a)

theorem alu_shl_flag (a b : Byte) : (alu .shl a b).flag = some (decide (a.toNat ≥ 128)) :=
  congrArg some (byte_bit7 a)

theorem flagByte_eq_one_iff (f : Bool) : flagByte f = 1 ↔ f = true := by
  cases f <;> decide

theorem flagByte_eq_zero_or_one (f : Bool) : flagByte f = 0 ∨ flagByte f = 1 := by
  cases f <;> decide

/-! #### What a flag-writing instruction leaves behind -/

theorem writeBack_pc (x : Reg) (o : AluOut) (s : State) : (writeBack x o s).pc = s.pc := by
  obtain ⟨r, h⟩ := writeBack_eq_setRegs x o s
  rw [h, State.setRegs_pc]

theorem frame_writeBack_advance (x : Reg) (o : AluOut) (s : State) :
    Frame [x, regF] [] s (writeBack x o s).advance := by
  constructor
  · intro z hz
    obtain ⟨hx, hf⟩ : z ≠ x ∧ z ≠ regF := by simpa using hz
    exact writeBack_v_other o s hx hf
  · intro p _
    obtain ⟨r, h⟩ := writeBack_eq_setRegs x o s
    rw [h]
    cases p <;> simp [Part.Same]

/-- Write-back of a result and a flag, by the three lines of R99. -/
theorem flagResult_writeBack {x : Reg} {o : AluOut} {r : Nat} {f : Prop} [Decidable f] (s : State)
    (hr : o.r.toNat = r) (hf : o.flag = some (decide f)) : FlagResult s (writeBack x o s).advance x r f := by
  have hbyte : (f → flagByte (decide f) = 1) ∧ (¬ f → flagByte (decide f) = 0) :=
    ⟨fun h => (flagByte_decide f).trans (if_pos h), fun h => (flagByte_decide f).trans (if_neg h)⟩
  refine ⟨fun hx => ?_, fun hx hp => ?_, fun hx hp => ?_⟩
  · have hx : x ≠ regF := hx
    rw [State.advance_v, writeBack_flagged s hf hx, setV_v_other _ _ hx, setV_v_same, setV_v_same]
    exact ⟨hr, hbyte⟩
  · obtain rfl : x = regF := hx
    rwa [State.advance_v, writeBack_flagWins hf hp, setV_v_same]
  · obtain rfl : x = regF := hx
    rwa [State.advance_v, writeBack_resultWins hf hp, setV_v_same]

/-- Instruction `i`, with destination Vx, completes in `s` with result `r` and flag `f`: PC moves to the next instruction,
Vx and VF are as R99 has them, and nothing else changes. -/
def CompletesFlagged (s : State) (i : Instr) (x : Reg) (r : Nat) (f : Prop) : Prop :=
  ∃ t, exec i s = .next t ∧ t.pc = s.pc + 2 ∧ Frame [x, regF] [] s t ∧ FlagResult s t x r f

/-- An instruction that is the flag unit at `op` has the result and the flag that `op` has as numbers. -/
theorem completesFlagged_of_execAlu {s : State} {i : Instr} {op : AluOp} {x : Reg} {b : Byte} {r : Nat} {f : Prop}
    [Decidable f] (hexec : exec i s = execAlu op x b s) (hr : (alu op (s.getV x) b).r.toNat = r)
    (hf : (alu op (s.getV x) b).flag = some (decide f)) : CompletesFlagged s i x r f :=
  ⟨_, hexec, congrArg (· + 2) (writeBack_pc x _ s), frame_writeBack_advance x _ s, flagResult_writeBack s hr hf⟩

section
variable (x y : Reg) (s : State)

theorem addReg_completesFlagged : CompletesFlagged s (.addReg x y) x ((s.v[x].toNat + s.v[y].toNat) % 256)
    (s.v[x].toNat + s.v[y].toNat > 255) :=
  completesFlagged_of_execAlu rfl (alu_add_r _ _) (alu_add_flag _ _)

theorem subReg_completesFlagged : CompletesFlagged s (.subReg x y) x ((s.v[x].toNat + 256 - s.v[y].toNat) % 256)
    (s.v[x].toNat ≥ s.v[y].toNat) :=
  completesFlagged_of_execAlu rfl (alu_sub_r _ _) (alu_sub_flag _ _)

theorem shr_completesFlagged : CompletesFlagged s (.shr x y) x (s.v[x].toNat / 2) (s.v[x].toNat % 2 = 1) :=
  completesFlagged_of_execAlu rfl (alu_shr_r _ _) (alu_shr_flag _ _)

theorem subnReg_completesFlagged : CompletesFlagged s (.subnReg x y) x ((s.v[y].toNat + 256 - s.v[x].toNat) % 256)
    (s.v[y].toNat ≥ s.v[x].toNat) :=
  completesFlagged_of_execAlu rfl (alu_subn_r _ _) (alu_subn_flag _ _)

theorem shl_completesFlagged : CompletesFlagged s (.shl x y) x (2 * s.v[x].toNat % 256) (s.v[x].toNat ≥ 128) :=
  completesFlagged_of_execAlu rfl (alu_shl_r _ _) (alu_shl_flag _ _)

end

/-- Settles O30: each of the five is the flag unit at one operation, whose result and flag `completesFlagged_of_execAlu`
carries through the write-back. -/
theorem flaggedArithmeticResults : Obligations.FlaggedArithmeticResults := by
  intro x y s
  obtain ⟨hadd, hsub, hshr, hsubn, hshl⟩ := decode_wordXyn_flagged x y
  exact ⟨⟨hadd, addReg_completesFlagged x y s⟩, ⟨hsub, subReg_completesFlagged x y s⟩,
    ⟨hshr, shr_completesFlagged x y s⟩, ⟨hsubn, subnReg_completesFlagged x y s⟩, ⟨hshl, shl_completesFlagged x y s⟩⟩

/-! #### The flag laws (R114) -/

/-- Where VF is not the destination, or the flag wins over the result, VF is the flag. -/
theorem vF_of_flagResult {s t : State} {x : Reg} {r : Nat} {f : Prop} [Decidable f] (h : FlagResult s t x r f)
    (hpolicy : x = regF → s.params.xfPolicy = .flagWins) : t.v[regF] = flagByte (decide f) := by
  obtain ⟨hother, hwins, -⟩ := h
  have hflag : (f → t.v[regF] = 1) ∧ (¬ f → t.v[regF] = 0) := by
    by_cases hx : x = regF
    · exact hwins hx (hpolicy hx)
    · exact (hother hx).2
  rw [flagByte_decide]
  split
  · exact hflag.1 ‹_›
  · exact hflag.2 ‹_›

theorem CompletesFlagged.vF_eq {s : State} {i : Instr} {x : Reg} {r : Nat} {f : Prop} [Decidable f]
    (h : CompletesFlagged s i x r f) (hpolicy : x = regF → s.params.xfPolicy = .flagWins) :
    ∃ t, exec i s = .next t ∧ t.v[regF] = flagByte (decide f) := by
  obtain ⟨t, hexec, -, -, hresult⟩ := h
  exact ⟨t, hexec, vF_of_flagResult hresult hpolicy⟩

/-- The law of an operation whose flag is a comparison. -/
theorem CompletesFlagged.vF_eq_one_iff {s : State} {i : Instr} {x : Reg} {r : Nat} {f : Prop} [Decidable f]
    (h : CompletesFlagged s i x r f) (hpolicy : x = regF → s.params.xfPolicy = .flagWins) :
    ∃ t, exec i s = .next t ∧ (t.v[regF] = 1 ↔ f) ∧ (t.v[regF] = 0 ∨ t.v[regF] = 1) := by
  obtain ⟨t, hexec, hvF⟩ := h.vF_eq hpolicy
  refine ⟨t, hexec, ?_, ?_⟩ <;> rw [hvF]
  · rw [flagByte_eq_one_iff, decide_eq_true_iff]
  · exact flagByte_eq_zero_or_one _

/-- The law of an operation whose flag is a bit. -/
theorem CompletesFlagged.vF_toNat {s : State} {i : Instr} {x : Reg} {r bit : Nat} {f : Prop} [Decidable f]
    (h : CompletesFlagged s i x r f) (hpolicy : x = regF → s.params.xfPolicy = .flagWins)
    (hbit : bit = if f then 1 else 0) : ∃ t, exec i s = .next t ∧ t.v[regF].toNat = bit := by
  obtain ⟨t, hexec, hvF⟩ := h.vF_eq hpolicy
  refine ⟨t, hexec, ?_⟩
  rw [hvF, flagByte_decide, hbit]
  split <;> rfl

/-- Settles O31: in all five VF is the flag; the bit shifted out is `a % 2` for SHR and `a / 128` for SHL. -/
theorem flagLawsHold : Obligations.FlagLawsHold := by
  intro x y s hpolicy
  have hlow : s.v[x].toNat % 2 = if s.v[x].toNat % 2 = 1 then 1 else 0 := by
    split <;> omega
  have hhigh : s.v[x].toNat / 128 = if s.v[x].toNat ≥ 128 then 1 else 0 := by
    have := s.v[x].isLt
    split <;> omega
  exact ⟨(addReg_completesFlagged x y s).vF_eq_one_iff hpolicy, (subReg_completesFlagged x y s).vF_eq_one_iff hpolicy,
    (subnReg_completesFlagged x y s).vF_eq_one_iff hpolicy, (shr_completesFlagged x y s).vF_toNat hpolicy hlow,
    (shl_completesFlagged x y s).vF_toNat hpolicy hhigh⟩

end Sys2Proof.Machine

/-! ### Index register, key wait and register load (spec/44_index_memory_timers.md R131, R135, R138)

LD F, LD Vx, K and LD Vx, [I] are each a chain of updates of the state. The frame of a chain is put together from the
frames of its updates by `frame_trans`. -/

namespace Sys2Proof.Machine

open Sys2Proof Sys2Proof.Safety

/-! #### Encodings -/

/-- The word of family F whose low byte selects one of the three decodes to it (R57, R59). -/
theorem decode_wordXnn_index (x : Reg) :
    decode (wordXnn 0xF x 0x0A) = .op (.ldVxK x) ∧ decode (wordXnn 0xF x 0x29) = .op (.ldFVx x) ∧
    decode (wordXnn 0xF x 0x65) = .op (.ldVxMem x) := by
  have hfamily (nn : Byte) : decode (wordXnn 0xF x nn) = decodeFamilyF (wordXnn 0xF x nn) := by
    simp [decode]
  simp only [hfamily]
  simp [decodeFamilyF]

/-! #### The frame of a chain of updates -/

theorem partSame_trans {s t u : State} {p : Part} (h : p.Same s t) (k : p.Same t u) : p.Same s u := by
  cases p with
  | mem => exact fun a => (k a).trans (h a)
  | stack =>
    obtain ⟨hslots, hsp⟩ := h
    obtain ⟨kslots, ksp⟩ := k
    exact ⟨kslots.trans hslots, ksp.trans hsp⟩
  | _ => exact Eq.trans k h

section
variable {regs : List Reg} {parts : List Part}

theorem frame_trans {s t u : State} (h : Frame regs parts s t) (k : Frame regs parts t u) : Frame regs parts s u := by
  obtain ⟨hregs, hparts⟩ := h
  obtain ⟨kregs, kparts⟩ := k
  exact ⟨fun z hz => (kregs z hz).trans (hregs z hz), fun p hp => partSame_trans (hparts p hp) (kparts p hp)⟩

theorem frame_advance {s t : State} (h : Frame regs parts s t) : Frame regs parts s t.advance :=
  frame_trans h (frame_setPc regs parts t _)

theorem frame_setI (s : State) (a : Word) (hi : .i ∈ parts) : Frame regs parts s (s.setI a) := by
  refine ⟨fun _ _ => rfl, fun p hp => ?_⟩
  cases p with
  | i => exact absurd hi hp
  | _ => simp [Part.Same]

theorem frame_setWait (s : State) (w : Option Reg) (hw : .wait ∈ parts) : Frame regs parts s (s.setWait w) := by
  refine ⟨fun _ _ => rfl, fun p hp => ?_⟩
  cases p with
  | wait => exact absurd hw hp
  | _ => simp [Part.Same]

/-- Replacing the register file is in the frame of every set of registers that holds the changed ones. -/
theorem frame_setRegs (s : State) (r : Vector Byte 16) (hr : ∀ z : Reg, z ∉ regs → r[z] = s.v[z]) :
    Frame regs parts s (s.setRegs r) :=
  ⟨hr, fun p _ => by cases p <;> simp [Part.Same]⟩

theorem frame_setV (s : State) {x : Reg} (b : Byte) (hx : x ∈ regs) : Frame regs parts s (s.setV x b) :=
  frame_setRegs s (s.v.set x b) fun _ hz => setV_v_other s b (ne_of_mem_of_not_mem hx hz).symm

end

/-! #### LD Vx, K (R131) -/

/-- Settles O39: `execLdVxK` branches on the scan of the keypad, which finds the least pressed key or none. -/
theorem ldKTakesTheLeastKeyOrBlocks : Obligations.LdKTakesTheLeastKeyOrBlocks := by
  intro x s
  obtain ⟨hdecode, -, -⟩ := decode_wordXnn_index x
  refine ⟨hdecode, fun k hk => ?_, fun hnone => ?_⟩
  · have hleast : leastKey s.key = some k := (leastKey_eq_some_iff s.key k).mpr hk
    have hstored : (s.setV x (BitVec.ofNat 8 k.val)).v[x].toNat = k.val := by
      rw [setV_v_same, keyByte_toNat]
    exact ⟨_, execLdVxK_key x hleast, hstored, rfl, rfl,
      frame_advance (frame_trans (frame_setV s _ (by simp)) (frame_setWait _ none (by simp)))⟩
  · have hleast : leastKey s.key = none := (leastKey_eq_none_iff s.key).mpr hnone
    exact ⟨_, execLdVxK_block x hleast, rfl, rfl, frame_setWait s (some x) (by simp)⟩

/-! #### LD Vx, [I] (R138) -/

/-- The byte a transfer reads at `base + k`, by its address in memory. -/
theorem memRead_byteAddr (s : State) (base : Word) (k : Nat) :
    s.memRead (byteAddr base k) = Memory.read (initByte s.params) s.mem ((base.toNat + k) % 4096) :=
  congrArg (Memory.read (initByte s.params) s.mem) (memIndex_byteAddr base k)

theorem regsLoaded_of_le (s : State) {x k : Reg} (h : k ≤ x) :
    (s.regsLoaded x)[k] = s.memRead (byteAddr s.i k.val) :=
  (regsLoaded_getElem s x k).trans (if_pos h)

theorem regsLoaded_of_gt (s : State) {x k : Reg} (h : x < k) : (s.regsLoaded x)[k] = s.v[k] :=
  (regsLoaded_getElem s x k).trans (if_neg (Fin.not_le.mpr h))

theorem mem_mayWriteRegs_ldVxMem (x z : Reg) : z ∈ mayWriteRegs (.ldVxMem x) ↔ z ≤ x := by
  simp [mayWriteRegs]

/-- Settles O41: the registers written are those up to Vx, and each holds the byte at its own address. -/
theorem ldFromMemoryLoadsUpToVx : Obligations.LdFromMemoryLoadsUpToVx := by
  intro x s
  obtain ⟨-, -, hdecode⟩ := decode_wordXnn_index x
  refine ⟨hdecode, _, rfl, fun k hk => ?_, fun k hk => regsLoaded_of_gt s hk, rfl, ?_⟩
  · exact (regsLoaded_of_le s hk).trans (memRead_byteAddr s s.i k.val)
  · refine frame_advance (frame_setRegs s _ fun z hz => regsLoaded_of_gt s ?_)
    rwa [mem_mayWriteRegs_ldVxMem, Fin.not_le] at hz

/-! #### LD F, Vx (R135) -/

theorem lowNibble_toNat (b : Byte) : (b &&& 0x0F#8).toNat = b.toNat % 16 :=
  Nat.and_two_pow_sub_one_eq_mod b.toNat 4

/-- The address of the glyph of a byte's low nibble: at most 75, so the 16-bit product does not wrap. -/
theorem glyphAddr_toNat (b : Byte) : (zextByte (b &&& 0x0F#8) * 5).toNat = b.toNat % 16 * 5 := by
  have hfive : (5 : Word).toNat = 5 := rfl
  simp only [zextByte, BitVec.toNat_mul, BitVec.toNat_setWidth, lowNibble_toNat, hfive]
  omega

/-- Settles O38: the next state is `s` with I at the glyph's address and PC advanced. -/
theorem ldFPointsAtTheGlyph : Obligations.LdFPointsAtTheGlyph := by
  intro x s
  obtain ⟨-, hdecode, -⟩ := decode_wordXnn_index x
  have hi := glyphAddr_toNat (s.getV x)
  have hbound : (zextByte (s.getV x &&& 0x0F#8) * 5).toNat ≤ 75 := by
    omega
  exact ⟨hdecode, _, rfl, hi, hbound, rfl, frame_advance (frame_setI s _ (by simp))⟩

end Sys2Proof.Machine

/-! ### Checkpoints (spec/60_exceptions.md R157 to R159)

Restore is the identity on a state whose slot holds its own snapshot, and Save makes such a state; so after a Save every
Restore changes nothing. -/

namespace Sys2Proof.Machine

open Sys2Proof

/-- Replacing the live state takes over the snapshot in every field a snapshot has. -/
@[simp] theorem State.withSnapshot_snapshot (s : State) (c : Snapshot) : (s.withSnapshot c).snapshot = c := rfl

/-- Replacing the live state by its own snapshot changes nothing. -/
@[simp] theorem State.withSnapshot_self (s : State) : s.withSnapshot s.snapshot = s := rfl

/-- A snapshot does not contain the slot. -/
@[simp] theorem State.setCkpt_snapshot (s : State) (c : Option Snapshot) : (s.setCkpt c).snapshot = s.snapshot := rfl

theorem hostSave_ckpt (s : State) : (hostSave s).ckpt = some s.snapshot := rfl

theorem hostSave_snapshot (s : State) : (hostSave s).snapshot = s.snapshot := s.setCkpt_snapshot _

/-- Save writes the slot only. -/
theorem hostSave_setCkpt (s : State) : (hostSave s).setCkpt s.ckpt = s := rfl

theorem hostRestore_of_ckpt_none {s : State} (h : s.ckpt = none) : hostRestore s = s := by
  simp only [hostRestore, h]

theorem hostRestore_of_ckpt_some {s : State} {c : Snapshot} (h : s.ckpt = some c) :
    hostRestore s = s.withSnapshot c := by
  simp only [hostRestore, h]

theorem hostRestore_of_ckpt_self {s : State} (h : s.ckpt = some s.snapshot) : hostRestore s = s :=
  (hostRestore_of_ckpt_some h).trans s.withSnapshot_self

theorem hostRestore_hostSave (s : State) : hostRestore (hostSave s) = hostSave s :=
  hostRestore_of_ckpt_self ((hostSave_ckpt s).trans (congrArg some (hostSave_snapshot s).symm))

/-- Settles O47: each of the two Restores leaves the saved state as it is. -/
theorem saveThenRestoreIsTheIdentity : Obligations.SaveThenRestoreIsTheIdentity := by
  intro s
  rw [hostRestore_hostSave]
  exact ⟨hostSave_setCkpt s, hostRestore_hostSave s, hostSave_ckpt s⟩

/-- Settles O48, by the two cases of the slot. -/
theorem restoreReattachesTheSnapshot : Obligations.RestoreReattachesTheSnapshot := by
  intro s
  refine ⟨hostRestore_of_ckpt_none, fun c hc => ?_⟩
  rw [hostRestore_of_ckpt_some hc]
  exact ⟨s.withSnapshot_snapshot c, (s.withSnapshot_ckpt c).trans hc, s.withSnapshot_fault c⟩

end Sys2Proof.Machine

/-! ### Reset (spec/70_reset_and_hazards.md R165, R167)

The registers, timers, stack and display after Reset are those of `State.init`; only memory is not all of Init's, and
`memRead_hostReset` splits it at the program base. -/

namespace Sys2Proof.Machine

open Sys2Proof

/-! #### The fields Reset clears -/

section
variable (s : State)

@[simp] theorem hostReset_pc : (hostReset s).pc = 0x200 := rfl

@[simp] theorem hostReset_v : (hostReset s).v = Vector.replicate 16 0 := rfl

@[simp] theorem hostReset_i : (hostReset s).i = 0 := rfl

@[simp] theorem hostReset_stack : (hostReset s).stack = Vector.replicate 16 0 := rfl

@[simp] theorem hostReset_sp : (hostReset s).sp = 0 := rfl

@[simp] theorem hostReset_dt : (hostReset s).dt = 0 := rfl

@[simp] theorem hostReset_st : (hostReset s).st = 0 := rfl

@[simp] theorem hostReset_disp : (hostReset s).disp = Display.dark := rfl

end

/-! #### Memory on the two sides of the program base -/

theorem initByte_font (p : Params) (k : Fin 80) : initByte p k.val = p.font[k] := dif_pos k.isLt

/-- An address below the size of memory is its own index: neither the 16-bit word nor the reduction of R39 cuts it. -/
theorem memIndex_ofNat {k : Nat} (h : k < memSize) : memIndex (BitVec.ofNat 16 k) = k := by
  have hsize : k < 4096 := h
  simp only [memIndex, BitVec.toNat_ofNat]
  omega

theorem memRead_hostReset_program (s : State) {a : Word} (h : progBase ≤ memIndex a) :
    (hostReset s).memRead a = s.memRead a :=
  (memRead_hostReset s a).trans (if_pos h)

theorem memRead_hostReset_below (s : State) {a : Word} (h : memIndex a < progBase) :
    (hostReset s).memRead a = initByte s.params (memIndex a) :=
  (memRead_hostReset s a).trans (if_neg (Nat.not_le.mpr h))

/-- The font lies below the program base, so Reset reloads it. -/
theorem memRead_hostReset_font (s : State) (k : Fin 80) :
    (hostReset s).memRead (BitVec.ofNat 16 k.val) = s.params.font[k] := by
  have hk := k.isLt
  have hindex : memIndex (BitVec.ofNat 16 k.val) = k.val := memIndex_ofNat (by unfold memSize; omega)
  have hbelow : memIndex (BitVec.ofNat 16 k.val) < progBase := by
    unfold progBase
    omega
  rw [memRead_hostReset_below s hbelow, hindex, initByte_font]

/-- Settles O45: the registers, the stack and the display are constant vectors, and memory is split at the program
base. -/
theorem resetClearsAllButTheProgramBytes : Obligations.ResetClearsAllButTheProgramBytes := by
  intro s
  have hv (z : Reg) : (hostReset s).v[z] = 0 := Vector.getElem_replicate z.isLt
  have hstack (k : Fin 16) : (hostReset s).stack[k] = 0 := Vector.getElem_replicate k.isLt
  have hdisp (px : Fin 64) (py : Fin 32) : (hostReset s).disp[py][px] = false := Display.pixel_dark px py
  exact ⟨hostReset_pc s, hv, hostReset_i s, hostReset_dt s, hostReset_st s, hostReset_sp s, hstack, hdisp,
    memRead_hostReset_font s, fun _ => memRead_hostReset_program s⟩

end Sys2Proof.Machine

/-! ### Encoding (spec/30_encoding.md R54 to R65)

Decoding an encoded word, and encoding a decoded one, both go format by format: a word is put together from its fields,
and its fields are read back from it, by the lemmas of Laws/Decode.lean. -/

namespace Sys2Proof.Machine

open Sys2Proof Sys2Proof.Safety

/-! #### From a term to its word and back -/

/-- The SYS words that are CLS and RET are told apart by the address field alone (R58, R67). -/
theorem decodeFamily0_sys {nnn : Addr} (h : sysFieldOk nnn = true) :
    decodeFamily0 (wordNnn 0x0 nnn) = .op (.sys nnn) := by
  obtain ⟨hcls, hret⟩ : nnn ≠ 0x0E0#12 ∧ nnn ≠ 0x0EE#12 := by
    simpa [sysFieldOk] using h
  have hne {a : Addr} (ha : nnn ≠ a) : wordNnn 0x0 nnn ≠ wordNnn 0x0 a := fun he => by
    have hfield := congrArg fieldNnn he
    rw [fieldNnn_wordNnn, fieldNnn_wordNnn] at hfield
    exact ha hfield
  unfold decodeFamily0
  rw [if_neg (show wordNnn 0x0 nnn ≠ 0x00E0#16 from hne hcls),
    if_neg (show wordNnn 0x0 nnn ≠ 0x00EE#16 from hne hret), fieldNnn_wordNnn]

/-- Settles O1: the decoder reads from an encoded word the family, the selector and the operands it was made of. -/
theorem decodeInvertsEncode : Obligations.DecodeInvertsEncode := by
  intro i hi
  cases i with
  | sys nnn => simpa [encode, decode] using decodeFamily0_sys hi
  | cls | ret => rfl
  | jp _ | call _ | ldI _ | jpV0 _ => simp [encode, decode]
  | seImm _ _ | sneImm _ _ | ldImm _ _ | addImm _ _ | rnd _ _ => simp [encode, decode]
  | seReg _ _ | sneReg _ _ | drw _ _ _ => simp [encode, decode]
  | ldReg _ _ | orReg _ _ | andReg _ _ | xorReg _ _ | addReg _ _ | subReg _ _ | shr _ _ | subnReg _ _ | shl _ _ =>
    simp [encode, decode, decodeFamily8]
  | skp _ | sknp _ => simp [encode, decode, decodeFamilyE]
  | ldVxDt _ | ldVxK _ | ldDtVx _ | ldStVx _ | addIVx _ | ldFVx _ | ldBVx _ | ldMemVx _ | ldVxMem _ =>
    simp [encode, decode, decodeFamilyF]

/-- Settles O3, by the number of each word format. -/
theorem encodingsAreTheOpcodeTable : Obligations.EncodingsAreTheOpcodeTable := by
  intro i
  cases i with
  | cls | ret => rfl
  | sys nnn | jp nnn | call nnn | ldI nnn | jpV0 nnn => exact wordNnn_toNat _ nnn
  | seImm x nn | sneImm x nn | ldImm x nn | addImm x nn | rnd x nn =>
    simp only [encode, wordXnn_toNat, tableValue, BitVec.ofNat_eq_ofNat, BitVec.toNat_ofNat]
    omega
  | skp x | sknp x | ldVxDt x | ldVxK x | ldDtVx x | ldStVx x | addIVx x | ldFVx x | ldBVx x | ldMemVx x | ldVxMem x =>
    simp only [encode, wordXnn_toNat, tableValue, BitVec.ofNat_eq_ofNat, BitVec.toNat_ofNat]
    omega
  | seReg x y | sneReg x y | drw x y n =>
    simp only [encode, wordXyn_toNat, tableValue, BitVec.ofNat_eq_ofNat, BitVec.toNat_ofNat]
    omega
  | ldReg x y | orReg x y | andReg x y | xorReg x y | addReg x y | subReg x y | shr x y | subnReg x y | shl x y =>
    simp only [encode, wordXyn_toNat, tableValue, BitVec.ofNat_eq_ofNat, BitVec.toNat_ofNat]
    omega

/-! #### From a word to its term and back -/

section
variable {w : Word} {f : Nibble}

theorem wordNnn_of_fields (hf : fieldFamily w = f) : wordNnn f (fieldNnn w) = w := hf ▸ wordNnn_fields w

theorem wordXnn_of_fields {nn : Byte} (hf : fieldFamily w = f) (hnn : fieldNn w = nn) : wordXnn f (fieldX w) nn = w :=
  hf ▸ hnn ▸ wordXnn_fields w

theorem wordXyn_of_fields {n : Nibble} (hf : fieldFamily w = f) (hn : fieldN w = n) :
    wordXyn f (fieldX w) (fieldY w) n = w :=
  hf ▸ hn ▸ wordXyn_fields w

end

/-- `i` is an instruction and `w` is its word. -/
def Denotes (i : Instr) (w : Word) : Prop := i.wellFormed = true ∧ encode i = w

theorem decodeFamily0_denotes {w : Word} {i : Instr} (hf : fieldFamily w = 0x0) (h : decodeFamily0 w = .op i) :
    Denotes i w := by
  unfold decodeFamily0 at h
  split_ifs at h with hcls hret <;> cases h
  · exact ⟨rfl, hcls.symm⟩
  · exact ⟨rfl, hret.symm⟩
  · have hw : wordNnn 0x0 (fieldNnn w) = w := wordNnn_of_fields hf
    have hne {a : Addr} (ha : w ≠ wordNnn 0x0 a) : fieldNnn w ≠ a := fun he => ha (he ▸ hw.symm)
    have hnotCls : fieldNnn w ≠ 0x0E0#12 := hne hcls
    have hnotRet : fieldNnn w ≠ 0x0EE#12 := hne hret
    have hok : sysFieldOk (fieldNnn w) = true := by
      simpa [sysFieldOk] using ⟨hnotCls, hnotRet⟩
    exact ⟨hok, hw⟩

theorem decodeFamily8_denotes {w : Word} {i : Instr} (hf : fieldFamily w = 0x8) (h : decodeFamily8 w = .op i) :
    Denotes i w := by
  unfold decodeFamily8 at h
  split_ifs at h with h0 h1 h2 h3 h4 h5 h6 h7 hE <;> cases h <;> exact ⟨rfl, wordXyn_of_fields hf ‹_›⟩

theorem decodeFamilyE_denotes {w : Word} {i : Instr} (hf : fieldFamily w = 0xE) (h : decodeFamilyE w = .op i) :
    Denotes i w := by
  unfold decodeFamilyE at h
  split_ifs at h <;> cases h <;> exact ⟨rfl, wordXnn_of_fields hf ‹_›⟩

theorem decodeFamilyF_denotes {w : Word} {i : Instr} (hf : fieldFamily w = 0xF) (h : decodeFamilyF w = .op i) :
    Denotes i w := by
  unfold decodeFamilyF at h
  split_ifs at h <;> cases h <;> exact ⟨rfl, wordXnn_of_fields hf ‹_›⟩

/-- Settles O2, family by family. -/
theorem encodeInvertsDecode : Obligations.EncodeInvertsDecode := by
  intro w i h
  have hfam {f : Nibble} (he : (fieldFamily w).toNat = f.toNat) : fieldFamily w = f := BitVec.eq_of_toNat_eq he
  unfold decode at h
  split at h
  -- the families with a selector of their own: 0, 8, E
  case h_1 he => exact decodeFamily0_denotes (hfam he) h
  case h_9 he => exact decodeFamily8_denotes (hfam he) h
  case h_15 he => exact decodeFamilyE_denotes (hfam he) h
  -- the formats nnn (1, 2, A, B), xnn (3, 4, 6, 7, C), xyn (D) and xy (5, 9)
  case h_2 he | h_3 he | h_11 he | h_12 he =>
    cases h
    exact ⟨rfl, wordNnn_of_fields (hfam he)⟩
  case h_4 he | h_5 he | h_7 he | h_8 he | h_13 he =>
    cases h
    exact ⟨rfl, wordXnn_of_fields (hfam he) rfl⟩
  case h_14 he =>
    cases h
    exact ⟨rfl, wordXyn_of_fields (hfam he) rfl⟩
  case h_6 he | h_10 he =>
    split_ifs at h with hn
    cases h
    exact ⟨rfl, wordXyn_of_fields (hfam he) hn⟩
  -- what is left is family F
  case h_16 =>
    have hlt := (fieldFamily w).isLt
    have hF : (fieldFamily w).toNat = 0xF := by
      simp only [imp_false] at *
      omega
    exact decodeFamilyF_denotes (hfam hF) h

/-! #### The unrecognized words (R63) -/

theorem decodeFamily8_unrecognized {w v : Word} (h : decodeFamily8 w = .unrecognized v) :
    w.toNat % 16 ∈ [0x8, 0x9, 0xA, 0xB, 0xC, 0xD, 0xF] := by
  unfold decodeFamily8 at h
  simp only [fieldN_eq_iff, BitVec.toNat_ofNat] at h
  split_ifs at h
  simp only [List.mem_cons, List.not_mem_nil, or_false]
  omega

theorem decodeFamilyE_unrecognized {w v : Word} (h : decodeFamilyE w = .unrecognized v) :
    w.toNat % 256 ∉ [0x9E, 0xA1] := by
  unfold decodeFamilyE at h
  simp only [fieldNn_eq_iff, BitVec.toNat_ofNat] at h
  split_ifs at h
  simp only [List.mem_cons, List.not_mem_nil, or_false]
  omega

theorem decodeFamilyF_unrecognized {w v : Word} (h : decodeFamilyF w = .unrecognized v) :
    w.toNat % 256 ∉ [0x07, 0x0A, 0x15, 0x18, 0x1E, 0x29, 0x33, 0x55, 0x65] := by
  unfold decodeFamilyF at h
  simp only [fieldNn_eq_iff, BitVec.toNat_ofNat] at h
  split_ifs at h
  simp only [List.mem_cons, List.not_mem_nil, or_false]
  omega

/-- The decoder recognizes every word outside the set of R63. -/
theorem unlistedWord_of_decode {w v : Word} (h : decode w = .unrecognized v) : UnlistedWord w := by
  have := w.isLt
  unfold decode at h
  rw [fieldFamily_toNat] at h
  unfold UnlistedWord
  split at h
  case h_6 he =>
    split_ifs at h with hn
    exact .inl ⟨he, fun hz => hn ((fieldN_eq_iff w 0).mpr hz)⟩
  case h_10 he =>
    split_ifs at h with hn
    exact .inr (.inl ⟨he, fun hz => hn ((fieldN_eq_iff w 0).mpr hz)⟩)
  case h_9 he => exact .inr (.inr (.inl ⟨he, decodeFamily8_unrecognized h⟩))
  case h_15 he => exact .inr (.inr (.inr (.inl ⟨he, decodeFamilyE_unrecognized h⟩)))
  case h_16 =>
    have hF : w.toNat / 4096 = 0xF := by
      simp only [imp_false] at *
      omega
    exact .inr (.inr (.inr (.inr ⟨hF, decodeFamilyF_unrecognized h⟩)))
  -- the other families recognize every word
  case h_1 =>
    unfold decodeFamily0 at h
    split_ifs at h
  all_goals cases h

/-- Settles O4: `decode_unlisted` and `unlistedWord_of_decode` are the two directions. -/
theorem unrecognizedWordsAreTheListedSet : Obligations.UnrecognizedWordsAreTheListedSet := by
  intro w
  refine ⟨⟨unlistedWord_of_decode, decode_unlisted⟩, fun ⟨i, hi⟩ hun => ?_, fun hlisted => ?_⟩
  · rw [decode_unlisted hun] at hi
    cases hi
  · cases hd : decode w with
    | op i => exact ⟨i, rfl⟩
    | unrecognized v => exact absurd (unlistedWord_of_decode hd) hlisted

/-- Settles O5, by running the decoder on the words. -/
theorem sampleWordsDecode : Obligations.SampleWordsDecode := by
  unfold Obligations.SampleWordsDecode
  decide

end Sys2Proof.Machine

/-! ### What an instruction can do (spec/10_state.md, spec/40_cycle.md section 3, spec/60_exceptions.md section 1)

Each meaning with more than one outcome gets one lemma that lists its outcomes. Over these stand the facts about every
instruction: `exec_frame` (what it leaves unchanged), `exec_of_raises` and `exec_completes` (its two ways to end), and
`exec_mem` (what it can make of memory). -/

namespace Sys2Proof.Machine

open Sys2Proof Sys2Proof.Safety

/-! #### Outcomes -/

theorem execCall_cases (nnn : Addr) (s : State) :
    (∃ h : s.sp.val < 16, execCall nnn s =
      .next (((s.setSlot ⟨s.sp.val, h⟩ s.pc).setSp (Fin.succ ⟨s.sp.val, h⟩)).setPc (zextAddr nnn))) ∨
    (s.sp.val = 16 ∧ execCall nnn s = .next (s.setFault .stackOverflow)) := by
  by_cases h : s.sp.val < 16
  · exact .inl ⟨h, execCall_room nnn h⟩
  · have hfull : s.sp.val = 16 := by omega
    exact .inr ⟨hfull, execCall_full nnn hfull⟩

theorem execRet_cases (s : State) :
    (∃ h : s.sp.val ≠ 0, execRet s =
      .next ((s.setSp (Fin.castSucc ⟨s.sp.val - 1, pop_lt s h⟩)).setPc (s.stack[s.sp.val - 1]'(pop_lt s h) + 2))) ∨
    (s.sp.val = 0 ∧ execRet s = .next (s.setFault .stackUnderflow)) := by
  by_cases h : s.sp.val = 0
  · exact .inr ⟨h, execRet_empty h⟩
  · exact .inl ⟨h, execRet_pop h⟩

theorem keySkip_cases (x : Reg) (level : Bool) (s : State) :
    (∃ h : s.v[x].toNat < 16, keySkip x level s = .next (s.skipIf (s.key[s.v[x].toNat] == level))) ∨
    (16 ≤ s.v[x].toNat ∧ keySkip x level s = .next (s.setFault .keyIndex)) := by
  by_cases h : s.v[x].toNat < 16
  · exact .inl ⟨h, keySkip_key level h⟩
  · exact .inr ⟨by omega, keySkip_noKey level (by omega)⟩

theorem execLdVxK_cases (x : Reg) (s : State) :
    (∃ k, leastKey s.key = some k ∧
      execLdVxK x s = .next ((s.setV x (BitVec.ofNat 8 k.val)).setWait none).advance) ∨
    (leastKey s.key = none ∧ execLdVxK x s = .next (s.setWait (some x))) := by
  cases h : leastKey s.key with
  | some k => exact .inl ⟨k, rfl, execLdVxK_key x h⟩
  | none => exact .inr ⟨rfl, execLdVxK_block x h⟩

/-- The font check is R139's condition. -/
theorem fontWriteFault_iff_forbids (s : State) (base : Word) (count : Nat) :
    s.fontWriteFault base count = true ↔ FontForbids s base count :=
  fontWriteFault_iff s base count

theorem storeBlock_forbidden {bs : List Byte} {s : State} (h : FontForbids s s.i bs.length) :
    storeBlock bs s = .next (s.setFault .fontWrite) :=
  if_pos ((fontWriteFault_iff_forbids s s.i bs.length).mpr h)

theorem storeBlock_allowed {bs : List Byte} {s : State} (h : ¬ FontForbids s s.i bs.length) :
    storeBlock bs s = .next (s.writeBytes s.i bs).advance :=
  if_neg fun hf => h ((fontWriteFault_iff_forbids s s.i bs.length).mp hf)

/-! #### Frames of single updates -/

section
variable {regs : List Reg} {parts : List Part}

theorem frame_of_onlyPart {s t : State} {q : Part} (hq : q ∈ parts) (hv : t.v = s.v)
    (h : ∀ p, p ≠ q → p.Same s t) : Frame regs parts s t :=
  ⟨fun z _ => by rw [hv], fun p hp => h p (ne_of_mem_of_not_mem hq hp).symm⟩

theorem frame_setSlot (s : State) (k : Fin 16) (a : Word) (h : .stack ∈ parts) :
    Frame regs parts s (s.setSlot k a) :=
  frame_of_onlyPart h rfl fun p hp => by cases p <;> simp_all [Part.Same]

theorem frame_setSp (s : State) (k : Fin 17) (h : .stack ∈ parts) : Frame regs parts s (s.setSp k) :=
  frame_of_onlyPart h rfl fun p hp => by cases p <;> simp_all [Part.Same]

theorem frame_setDt (s : State) (b : Byte) (h : .dt ∈ parts) : Frame regs parts s (s.setDt b) :=
  frame_of_onlyPart h rfl fun p hp => by cases p <;> simp_all [Part.Same]

theorem frame_setSt (s : State) (b : Byte) (h : .st ∈ parts) : Frame regs parts s (s.setSt b) :=
  frame_of_onlyPart h rfl fun p hp => by cases p <;> simp_all [Part.Same]

theorem frame_setKey (s : State) (k : Vector Bool 16) (h : .key ∈ parts) : Frame regs parts s (s.setKey k) :=
  frame_of_onlyPart h rfl fun p hp => by cases p <;> simp_all [Part.Same]

theorem frame_setDisp (s : State) (d : Display) (h : .disp ∈ parts) : Frame regs parts s (s.setDisp d) :=
  frame_of_onlyPart h rfl fun p hp => by cases p <;> simp_all [Part.Same]

theorem frame_setCkpt (s : State) (c : Option Snapshot) (h : .ckpt ∈ parts) : Frame regs parts s (s.setCkpt c) :=
  frame_of_onlyPart h rfl fun p hp => by cases p <;> simp_all [Part.Same]

theorem frame_setFault (s : State) (c : FaultCode) (h : .fault ∈ parts) : Frame regs parts s (s.setFault c) :=
  frame_of_onlyPart h rfl fun p hp => by cases p <;> simp_all [Part.Same]

theorem frame_setDraws (s : State) (k : Nat) (h : .draws ∈ parts) : Frame regs parts s (s.setDraws k) :=
  frame_of_onlyPart h rfl fun p hp => by cases p <;> simp_all [Part.Same]

theorem frame_setMem (s : State) (m : Memory) (h : .mem ∈ parts) : Frame regs parts s (s.setMem m) :=
  frame_of_onlyPart h rfl fun p hp => by cases p <;> simp_all [Part.Same]

theorem frame_writeBytes (s : State) (base : Word) (bs : List Byte) (h : .mem ∈ parts) :
    Frame regs parts s (s.writeBytes base bs) := by
  obtain ⟨m, hm⟩ := writeBytes_eq_setMem s base bs
  rw [hm]
  exact frame_setMem s m h

/-- An operation of the flag unit without a flag writes Vx only (R99). -/
theorem frame_writeBack_unflagged {x : Reg} {o : AluOut} (s : State) (h : o.flag = none) :
    Frame [x] [] s (writeBack x o s).advance := by
  rw [writeBack_unflagged s h]
  exact frame_advance (frame_setV s o.r (by simp))

theorem frame_storeBlock {bs : List Byte} {s t : State} (h : storeBlock bs s = .next t) :
    Frame [] [.mem, .fault] s t := by
  rcases storeBlock_cases bs s with ⟨-, hs⟩ | ⟨-, hs⟩ <;> rw [hs] at h <;> cases h
  · exact frame_setFault s .fontWrite (by simp)
  · exact frame_advance (frame_writeBytes s s.i bs (by simp))

theorem frame_keySkip {x : Reg} {level : Bool} {s t : State} (h : keySkip x level s = .next t) :
    Frame [] [.fault] s t := by
  rcases keySkip_cases x level s with ⟨_, hs⟩ | ⟨-, hs⟩ <;> rw [hs] at h <;> cases h
  · exact frame_setPc [] _ s _
  · exact frame_setFault s .keyIndex (by simp)

end

/-! #### The frame of an instruction -/

/-- Who writes what (R18, R21, R22, R24 to R27, R38), one constructor at a time. -/
theorem exec_frame {i : Instr} {s t : State} (ht : exec i s = .next t) :
    Frame (mayWriteRegs i) (mayWriteParts i) s t := by
  cases i with
  | sys _ | jp _ | jpV0 _ | seImm _ _ | sneImm _ _ | seReg _ _ | sneReg _ _ =>
    cases ht
    exact frame_setPc [] [] s _
  | ldImm _ _ | addImm _ _ | ldReg _ _ | orReg _ _ | andReg _ _ | xorReg _ _ =>
    cases ht
    exact frame_writeBack_unflagged s rfl
  | addReg _ _ | subReg _ _ | shr _ _ | subnReg _ _ | shl _ _ =>
    cases ht
    exact frame_writeBack_advance _ _ s
  | cls =>
    cases ht
    exact frame_advance (frame_setDisp s _ (by simp [mayWriteParts]))
  | drw _ _ _ =>
    cases ht
    exact frame_advance (frame_trans (frame_setV s _ (by simp [mayWriteRegs]))
      (frame_setDisp _ _ (by simp [mayWriteParts])))
  | rnd _ _ =>
    cases ht
    exact frame_advance (frame_trans (frame_setV s _ (by simp [mayWriteRegs]))
      (frame_setDraws _ _ (by simp [mayWriteParts])))
  | call nnn =>
    rcases execCall_cases nnn s with ⟨_, hs⟩ | ⟨-, hs⟩ <;> cases hs.symm.trans ht
    · exact frame_trans (frame_trans (frame_setSlot s _ _ (by simp [mayWriteParts]))
        (frame_setSp _ _ (by simp [mayWriteParts]))) (frame_setPc _ _ _ _)
    · exact frame_setFault s _ (by simp [mayWriteParts])
  | ret =>
    rcases execRet_cases s with ⟨_, hs⟩ | ⟨-, hs⟩ <;> cases hs.symm.trans ht
    · exact frame_trans (frame_setSp s _ (by simp [mayWriteParts])) (frame_setPc _ _ _ _)
    · exact frame_setFault s _ (by simp [mayWriteParts])
  | skp _ | sknp _ => exact frame_keySkip ht
  | ldI _ | addIVx _ | ldFVx _ =>
    cases ht
    exact frame_advance (frame_setI s _ (by simp [mayWriteParts]))
  | ldVxDt _ =>
    cases ht
    exact frame_advance (frame_setV s _ (by simp [mayWriteRegs]))
  | ldDtVx _ =>
    cases ht
    exact frame_advance (frame_setDt s _ (by simp [mayWriteParts]))
  | ldStVx _ =>
    cases ht
    exact frame_advance (frame_setSt s _ (by simp [mayWriteParts]))
  | ldVxK x =>
    rcases execLdVxK_cases x s with ⟨_, -, hs⟩ | ⟨-, hs⟩ <;> cases hs.symm.trans ht
    · exact frame_advance (frame_trans (frame_setV s _ (by simp [mayWriteRegs]))
        (frame_setWait _ _ (by simp [mayWriteParts])))
    · exact frame_setWait s _ (by simp [mayWriteParts])
  | ldBVx _ | ldMemVx _ => exact frame_storeBlock ht
  | ldVxMem x =>
    cases ht
    refine frame_advance (frame_setRegs s _ fun z hz => regsLoaded_of_gt s ?_)
    rwa [mem_mayWriteRegs_ldVxMem, Fin.not_le] at hz

/-- A part outside an instruction's list is the same after it. -/
theorem exec_part {i : Instr} {s t : State} (ht : exec i s = .next t) (p : Part) (hp : p ∉ mayWriteParts i) :
    p.Same s t := by
  obtain ⟨-, hparts⟩ := exec_frame ht
  exact hparts p hp

theorem exec_params {i : Instr} {s t : State} (ht : exec i s = .next t) : t.params = s.params :=
  exec_part ht .params (by cases i <;> simp [mayWriteParts])

theorem exec_ckpt {i : Instr} {s t : State} (ht : exec i s = .next t) : t.ckpt = s.ckpt :=
  exec_part ht .ckpt (by cases i <;> simp [mayWriteParts])

/-- Settles O18. -/
theorem everyInstructionKeepsItsFrame : Obligations.EveryInstructionKeepsItsFrame :=
  fun _ _ _ ht => exec_frame ht

/-! #### Where PC goes -/

/-- PC has moved from `s` to `t` as it does past `i`: by 4 over a skipped instruction, by 2 otherwise (R76). -/
def Proceeds (s : State) (i : Instr) (t : State) : Prop :=
  (SkipHolds s i → t.pc = s.pc + 4) ∧ (¬ SkipHolds s i → t.pc = s.pc + 2)

theorem proceeds_of_advance {s t : State} {i : Instr} (hi : ¬ SkipHolds s i) (hpc : t.pc = s.pc + 2) :
    Proceeds s i t :=
  ⟨fun h => absurd h hi, fun _ => hpc⟩

theorem proceeds_skipIf {s : State} {i : Instr} {c : Bool} (hc : c = true ↔ SkipHolds s i) :
    Proceeds s i (s.skipIf c) :=
  ⟨fun h => if_pos (hc.mpr h), fun h => if_neg fun hct => h (hc.mp hct)⟩

/-- A byte below 16 names a line, and the key is pressed when that line is 1. -/
theorem pressed_iff (s : State) {b : Byte} (h : b.toNat < 16) : Pressed s b ↔ s.key[b.toNat] = true := by
  constructor
  · rintro ⟨k, hk, hkey⟩
    obtain rfl : k = ⟨b.toNat, h⟩ := Fin.ext hk
    exact hkey
  · intro hkey
    exact ⟨⟨b.toNat, h⟩, rfl, hkey⟩

/-- The register and immediate skips test what their conditions say. -/
theorem proceeds_seImm (x : Reg) (nn : Byte) (s : State) : Proceeds s (.seImm x nn) (s.skipIf (s.getV x == nn)) :=
  proceeds_skipIf beq_iff_eq

theorem proceeds_sneImm (x : Reg) (nn : Byte) (s : State) : Proceeds s (.sneImm x nn) (s.skipIf (s.getV x != nn)) :=
  proceeds_skipIf bne_iff_ne

theorem proceeds_seReg (x y : Reg) (s : State) : Proceeds s (.seReg x y) (s.skipIf (s.getV x == s.getV y)) :=
  proceeds_skipIf beq_iff_eq

theorem proceeds_sneReg (x y : Reg) (s : State) : Proceeds s (.sneReg x y) (s.skipIf (s.getV x != s.getV y)) :=
  proceeds_skipIf bne_iff_ne

theorem proceeds_skp {x : Reg} {s : State} (h : s.v[x].toNat < 16) :
    Proceeds s (.skp x) (s.skipIf (s.key[s.v[x].toNat] == true)) :=
  proceeds_skipIf (by rw [beq_iff_eq]; exact (pressed_iff s h).symm)

theorem proceeds_sknp {x : Reg} {s : State} (h : s.v[x].toNat < 16) :
    Proceeds s (.sknp x) (s.skipIf (s.key[s.v[x].toNat] == false)) :=
  proceeds_skipIf (by
    rw [beq_iff_eq, ← Bool.not_eq_true]
    exact not_congr (pressed_iff s h).symm)

/-! #### The two ways an instruction ends -/

/-- An instruction in whose state a condition of R142 holds sets FAULT and does nothing else (R141). -/
theorem exec_of_raises {i : Instr} {s : State} {c : FaultCode} (h : Raises s i c) :
    exec i s = .next (s.setFault c) := by
  cases i with
  | call nnn =>
    obtain ⟨rfl, hsp⟩ := h
    exact execCall_full nnn hsp
  | ret =>
    obtain ⟨rfl, hsp⟩ := h
    exact execRet_empty hsp
  | skp x | sknp x =>
    obtain ⟨rfl, hx⟩ := h
    exact keySkip_noKey _ hx
  | ldBVx x =>
    obtain ⟨rfl, hf⟩ := h
    exact storeBlock_forbidden hf
  | ldMemVx x =>
    obtain ⟨rfl, hf⟩ := h
    exact storeBlock_forbidden ((regsUpTo_length s x).symm ▸ hf)
  | _ => exact h.elim

/-- The next state of an instruction that raises no fault: FAULT is as before, and unless the instruction jumps or blocks
PC has moved past it. -/
def Completes (s : State) (i : Instr) (t : State) : Prop :=
  t.fault = s.fault ∧ (isTransfer i = false → ¬ Blocks s i → Proceeds s i t)

theorem completes_of_proceeds {s t : State} {i : Instr} (hf : t.fault = s.fault) (h : Proceeds s i t) :
    Completes s i t :=
  ⟨hf, fun _ _ => h⟩

theorem completes_of_transfer {s t : State} {i : Instr} (hf : t.fault = s.fault) (h : isTransfer i = true) :
    Completes s i t :=
  ⟨hf, fun hn => absurd (h.symm.trans hn) (by decide)⟩

theorem completes_writeBack {x : Reg} {o : AluOut} {s : State} {i : Instr} (hi : ¬ SkipHolds s i) :
    Completes s i (writeBack x o s).advance := by
  obtain ⟨r, hr⟩ := writeBack_eq_setRegs x o s
  rw [hr]
  exact completes_of_proceeds rfl (proceeds_of_advance hi rfl)

theorem completes_writeBytes {bs : List Byte} {s : State} {i : Instr} (hi : ¬ SkipHolds s i) :
    Completes s i (s.writeBytes s.i bs).advance := by
  obtain ⟨m, hm⟩ := writeBytes_eq_setMem s s.i bs
  rw [hm]
  exact completes_of_proceeds rfl (proceeds_of_advance hi rfl)

/-- An instruction in whose state no condition of R142 holds completes. -/
theorem exec_completes {i : Instr} {s : State} (h : ∀ c, ¬ Raises s i c) :
    ∃ t, exec i s = .next t ∧ Completes s i t := by
  cases i with
  | jp _ | jpV0 _ => exact ⟨_, rfl, completes_of_transfer rfl rfl⟩
  | call nnn =>
    rcases execCall_cases nnn s with ⟨_, hs⟩ | ⟨hfull, -⟩
    · exact ⟨_, hs, completes_of_transfer rfl rfl⟩
    · exact absurd ⟨rfl, hfull⟩ (h .stackOverflow)
  | ret =>
    rcases execRet_cases s with ⟨_, hs⟩ | ⟨hempty, -⟩
    · exact ⟨_, hs, completes_of_transfer rfl rfl⟩
    · exact absurd ⟨rfl, hempty⟩ (h .stackUnderflow)
  | seImm x nn => exact ⟨_, rfl, completes_of_proceeds rfl (proceeds_seImm x nn s)⟩
  | sneImm x nn => exact ⟨_, rfl, completes_of_proceeds rfl (proceeds_sneImm x nn s)⟩
  | seReg x y => exact ⟨_, rfl, completes_of_proceeds rfl (proceeds_seReg x y s)⟩
  | sneReg x y => exact ⟨_, rfl, completes_of_proceeds rfl (proceeds_sneReg x y s)⟩
  | skp x =>
    rcases keySkip_cases x true s with ⟨hx, hs⟩ | ⟨hx, -⟩
    · exact ⟨_, hs, completes_of_proceeds rfl (proceeds_skp hx)⟩
    · exact absurd ⟨rfl, hx⟩ (h .keyIndex)
  | sknp x =>
    rcases keySkip_cases x false s with ⟨hx, hs⟩ | ⟨hx, -⟩
    · exact ⟨_, hs, completes_of_proceeds rfl (proceeds_sknp hx)⟩
    · exact absurd ⟨rfl, hx⟩ (h .keyIndex)
  | ldVxK x =>
    rcases execLdVxK_cases x s with ⟨_, -, hs⟩ | ⟨hnone, hs⟩
    · exact ⟨_, hs, completes_of_proceeds rfl (proceeds_of_advance id rfl)⟩
    · have hblocks : Blocks s (.ldVxK x) := ⟨⟨x, rfl⟩, (leastKey_eq_none_iff s.key).mp hnone⟩
      exact ⟨_, hs, rfl, fun _ hn => absurd hblocks hn⟩
  | ldBVx x => exact ⟨_, storeBlock_allowed fun hf => h .fontWrite ⟨rfl, hf⟩, completes_writeBytes id⟩
  | ldMemVx x =>
    have hallowed : ¬ FontForbids s s.i (s.regsUpTo x).length := fun hf =>
      h .fontWrite ⟨rfl, regsUpTo_length s x ▸ hf⟩
    exact ⟨_, storeBlock_allowed hallowed, completes_writeBytes id⟩
  | ldImm _ _ | addImm _ _ | ldReg _ _ | orReg _ _ | andReg _ _ | xorReg _ _ | addReg _ _ | subReg _ _ | shr _ _
  | subnReg _ _ | shl _ _ => exact ⟨_, rfl, completes_writeBack id⟩
  | sys _ | cls | ldI _ | rnd _ _ | drw _ _ _ | ldVxDt _ | ldDtVx _ | ldStVx _ | addIVx _ | ldFVx _ | ldVxMem _ =>
    exact ⟨_, rfl, completes_of_proceeds rfl (proceeds_of_advance id rfl)⟩

theorem exec_total (i : Instr) (s : State) : ∃ t, exec i s = .next t := by
  by_cases h : ∃ c, Raises s i c
  · obtain ⟨c, hc⟩ := h
    exact ⟨_, exec_of_raises hc⟩
  · obtain ⟨t, ht, -⟩ := exec_completes (not_exists.mp h)
    exact ⟨t, ht⟩

theorem raises_ne_none {i : Instr} {s : State} {c : FaultCode} (h : Raises s i c) : c ≠ .none := by
  cases i with
  | call _ | ret | skp _ | sknp _ | ldBVx _ | ldMemVx _ =>
    obtain ⟨rfl, -⟩ := h
    decide
  | _ => exact h.elim

/-- Settles O20. -/
theorem faultsArePrecise : Obligations.FaultsArePrecise := by
  intro i s t c hc ht
  rw [exec_of_raises hc] at ht
  exact (Host.Outcome.next.inj ht).symm

/-- Settles O19: the instruction faults by `exec_of_raises` or completes by `exec_completes`. -/
theorem faultsAreRaisedExactlyWhereListed : Obligations.FaultsAreRaisedExactlyWhereListed := by
  intro i s hf
  by_cases h : ∃ c, Raises s i c
  · obtain ⟨c, hc⟩ := h
    have hexec := exec_of_raises hc
    refine ⟨_, hexec, ⟨fun hnone => absurd hnone (raises_ne_none hc), fun hno => absurd hc (hno c)⟩, fun d hd => ?_⟩
    exact congrArg State.fault (faultsArePrecise i s _ d hd hexec)
  · rw [not_exists] at h
    obtain ⟨t, ht, hfault, -⟩ := exec_completes h
    exact ⟨t, ht, ⟨fun _ => h, fun _ => hfault.trans hf⟩, fun c hc => absurd hc (h c)⟩

/-- Settles O11: a fault leaves PC alone by O20, and a completed instruction moves it as `Completes` says. -/
theorem pcAdvancesByTwoOrByFourOnASkip : Obligations.PcAdvancesByTwoOrByFourOnASkip := by
  intro i s t hf ht
  by_cases h : ∃ c, Raises s i c
  · obtain ⟨c, hc⟩ := h
    obtain rfl := faultsArePrecise i s t c hc ht
    exact ⟨fun _ => rfl, fun hnone => absurd hnone (raises_ne_none hc)⟩
  · obtain ⟨u, hu, hfault, hproceeds⟩ := exec_completes (not_exists.mp h)
    obtain rfl : u = t := Host.Outcome.next.inj (hu.symm.trans ht)
    exact ⟨fun hne => absurd (hfault.trans hf) hne, fun _ => hproceeds⟩

/-! #### Nothing stops -/

theorem step_total (s : State) : ∃ t, step s = .next t := by
  rcases step_cases s with ⟨-, hs⟩ | ⟨x, -, -, hs⟩ | ⟨i, -, -, -, hs⟩ | ⟨w, -, -, -, hs⟩ <;> rw [hs]
  · exact ⟨_, rfl⟩
  · rcases keyWaitStep_cases x s with ⟨hk, -⟩ | ⟨k, -, -, hk⟩ <;> exact ⟨_, hk⟩
  · exact exec_total i s
  · exact ⟨_, rfl⟩

theorem apply_total (op : HostOp) (s : State) : ∃ t, op.apply s = .next t := by
  cases op with
  | step => exact step_total s
  | _ => exact ⟨_, rfl⟩

theorem applyAll_total (ops : List HostOp) (s : State) : ∃ t, HostOp.applyAll ops s = .next t := by
  induction ops generalizing s with
  | nil => exact ⟨s, rfl⟩
  | cons op ops ih =>
    obtain ⟨t, ht⟩ := apply_total op s
    obtain ⟨u, hu⟩ := ih t
    exact ⟨u, by simp only [HostOp.applyAll, ht, hu]⟩

/-- Settles O14. -/
theorem nothingEverStops : Obligations.NothingEverStops :=
  ⟨exec_total, step_total, applyAll_total⟩

end Sys2Proof.Machine

/-! ### The invariant (spec/10_state.md R27, spec/20_memory.md R38)

`Inv` speaks of memory, PC, WAIT, the parameters and the checkpoint slot. A transition that leaves the slot and the
parameters alone keeps it when the new memory is canonical and a pending wait stands at its Fx0A (`inv_of_sameSlot`). -/

namespace Sys2Proof.Machine

open Sys2Proof Sys2Proof.Safety

/-- While WAIT is non-empty PC holds the address of the blocked Fx0A, whose x is the waiting register (R27). -/
def WaitsAtItsInstr (s : State) : Prop := ∀ x : Reg, s.wait = some x → s.fetchDecode = .op (.ldVxK x)

theorem inv_iff (s : State) :
    Inv s ↔ MemoryCanonical s ∧ WaitsAtItsInstr s ∧ ∀ c, s.ckpt = some c → SnapshotInv s.params c :=
  and_assoc

theorem waitsAtItsInstr_of_none {s : State} (h : s.wait = none) : WaitsAtItsInstr s := fun x hx => by
  rw [h] at hx
  cases hx

theorem waitsAtItsInstr_congr {s t : State} (hs : WaitsAtItsInstr s) (hmem : t.mem = s.mem)
    (hparams : t.params = s.params) (hpc : t.pc = s.pc) (hwait : t.wait = s.wait) : WaitsAtItsInstr t := fun x hx => by
  rw [fetchDecode_congr hmem hparams hpc]
  exact hs x (hwait ▸ hx)

theorem inv_of_sameSlot {s t : State} (hs : Inv s) (hparams : t.params = s.params) (hckpt : t.ckpt = s.ckpt)
    (hmem : MemoryCanonical t) (hwait : WaitsAtItsInstr t) : Inv t := by
  obtain ⟨-, -, hslot⟩ := (inv_iff s).mp hs
  refine (inv_iff t).mpr ⟨hmem, hwait, fun c hc => ?_⟩
  rw [hparams]
  exact hslot c (hckpt ▸ hc)

/-! #### Memory stays canonical -/

theorem writeBack_mem (x : Reg) (o : AluOut) (s : State) : (writeBack x o s).mem = s.mem := by
  obtain ⟨r, h⟩ := writeBack_eq_setRegs x o s
  rw [h, State.setRegs_mem]

/-- Everything an instruction can make of memory: nothing, or a block stored at I. -/
theorem exec_mem {i : Instr} {s t : State} (ht : exec i s = .next t) :
    t.mem = s.mem ∨ ∃ bs, t.mem = (s.writeBytes s.i bs).mem := by
  cases i with
  | call nnn =>
    rcases execCall_cases nnn s with ⟨_, hs⟩ | ⟨-, hs⟩ <;> cases hs.symm.trans ht <;> exact .inl rfl
  | ret =>
    rcases execRet_cases s with ⟨_, hs⟩ | ⟨-, hs⟩ <;> cases hs.symm.trans ht <;> exact .inl rfl
  | skp x | sknp x =>
    rcases keySkip_cases x _ s with ⟨_, hs⟩ | ⟨-, hs⟩ <;> cases hs.symm.trans ht <;> exact .inl rfl
  | ldVxK x =>
    rcases execLdVxK_cases x s with ⟨_, -, hs⟩ | ⟨-, hs⟩ <;> cases hs.symm.trans ht <;> exact .inl rfl
  | ldBVx _ | ldMemVx _ =>
    rcases storeBlock_cases _ s with ⟨-, hs⟩ | ⟨-, hs⟩ <;> cases hs.symm.trans ht
    · exact .inl rfl
    · exact .inr ⟨_, rfl⟩
  | ldImm x _ | addImm x _ | ldReg x _ | orReg x _ | andReg x _ | xorReg x _ | addReg x _ | subReg x _ | shr x _
  | subnReg x _ | shl x _ =>
    cases ht
    exact .inl (writeBack_mem x _ s)
  | sys _ | cls | jp _ | seImm _ _ | sneImm _ _ | seReg _ _ | sneReg _ _ | ldI _ | jpV0 _ | rnd _ _ | drw _ _ _
  | ldVxDt _ | ldDtVx _ | ldStVx _ | addIVx _ | ldFVx _ | ldVxMem _ =>
    cases ht
    exact .inl rfl

theorem memoryCanonical_of_mem {s t : State} (hs : MemoryCanonical s) (hparams : t.params = s.params)
    (hmem : t.mem = s.mem ∨ ∃ base bs, t.mem = (s.writeBytes base bs).mem) : MemoryCanonical t := by
  unfold MemoryCanonical
  rw [hparams]
  rcases hmem with h | ⟨base, bs, h⟩ <;> rw [h]
  · exact hs
  · exact writeBytes_wf hs base bs

theorem exec_keeps_memoryCanonical {i : Instr} {s t : State} (hs : MemoryCanonical s) (ht : exec i s = .next t) :
    MemoryCanonical t :=
  memoryCanonical_of_mem hs (exec_params ht) ((exec_mem ht).imp_right fun ⟨bs, h⟩ => ⟨s.i, bs, h⟩)

/-! #### Who sets WAIT -/

/-- An instruction executed with no wait pending leaves none pending, or is an Fx0A that blocks where it stands. -/
theorem exec_wait {i : Instr} {s t : State} (hw : s.wait = none) (ht : exec i s = .next t) :
    t.wait = none ∨ ∃ x, i = .ldVxK x ∧ t = s.setWait (some x) := by
  cases i with
  | ldVxK x =>
    rcases execLdVxK_cases x s with ⟨_, -, hs⟩ | ⟨-, hs⟩ <;> cases hs.symm.trans ht
    · exact .inl rfl
    · exact .inr ⟨x, rfl, rfl⟩
  | _ => exact .inl ((exec_part ht .wait (by simp [mayWriteParts])).trans hw)

/-! #### The obligations -/

/-- Settles O15, by the four outcomes of a Step. -/
theorem stepKeepsTheInvariant : Obligations.StepKeepsTheInvariant := by
  intro s t hinv ht
  obtain ⟨hmem, -, -⟩ := (inv_iff s).mp hinv
  rcases step_cases s with ⟨-, hs⟩ | ⟨x, -, -, hs⟩ | ⟨i, -, hw, hd, hs⟩ | ⟨w, -, hw, -, hs⟩ <;> rw [hs] at ht
  · cases ht
    exact hinv
  · rcases keyWaitStep_cases x s with ⟨hk, -⟩ | ⟨k, -, -, hk⟩ <;> cases hk.symm.trans ht
    · exact hinv
    · exact inv_of_sameSlot hinv rfl rfl hmem (waitsAtItsInstr_of_none rfl)
  · refine inv_of_sameSlot hinv (exec_params ht) (exec_ckpt ht) (exec_keeps_memoryCanonical hmem ht) ?_
    rcases exec_wait hw ht with hnone | ⟨x, rfl, rfl⟩
    · exact waitsAtItsInstr_of_none hnone
    · -- the blocked instruction is the one that was fetched, and PC has not moved
      rintro y hy
      cases hy
      exact hd
  · cases ht
    exact inv_of_sameSlot hinv rfl rfl hmem (waitsAtItsInstr_of_none hw)

theorem inv_of_cleared {s : State} (hmem : MemoryCanonical s) (hwait : s.wait = none) (hckpt : s.ckpt = none) :
    Inv s :=
  (inv_iff s).mpr ⟨hmem, waitsAtItsInstr_of_none hwait, fun c hc => by
    rw [hckpt] at hc
    cases hc⟩

/-- Settles O16: after Init memory lists nothing, and WAIT and the slot are empty. -/
theorem initMeetsTheInvariant : Obligations.InitMeetsTheInvariant := by
  have hinit (p : Params) : Inv (State.init p) := inv_of_cleared (Memory.nil_wf (initByte p)) rfl rfl
  exact ⟨hinit, hinit defaultParams⟩

/-- Load changes memory only (R164). -/
theorem hostLoad_eq_setMem (image : List Byte) (s : State) : ∃ m, hostLoad image s = s.setMem m :=
  writeBytes_eq_setMem s _ _

theorem hostLoad_keeps_inv {s : State} (image : List Byte) (hs : Inv s) (hw : s.wait = none) :
    Inv (hostLoad image s) := by
  obtain ⟨hmem, -, -⟩ := (inv_iff s).mp hs
  have hcanonical : Memory.wf (initByte s.params) (hostLoad image s).mem := writeBytes_wf hmem _ _
  obtain ⟨m, hm⟩ := hostLoad_eq_setMem image s
  rw [hm] at hcanonical ⊢
  exact inv_of_sameSlot hs rfl rfl hcanonical (waitsAtItsInstr_of_none hw)

theorem hostRestore_keeps_inv {s : State} (hs : Inv s) : Inv (hostRestore s) := by
  cases hc : s.ckpt with
  | none =>
    rw [hostRestore_of_ckpt_none hc]
    exact hs
  | some c =>
    obtain ⟨-, hslot⟩ := hs
    rw [hostRestore_of_ckpt_some hc]
    exact ⟨hslot c hc, hslot⟩

/-- Settles O17, by the host operations one at a time. -/
theorem hostOperationsKeepTheInvariant : Obligations.HostOperationsKeepTheInvariant := by
  intro op s t hinv ht hload
  obtain ⟨hmem, hwait, -⟩ := (inv_iff s).mp hinv
  cases op with
  | step => exact stepKeepsTheInvariant s t hinv ht
  | init =>
    cases ht
    exact inv_of_cleared (Memory.nil_wf (initByte s.params)) rfl rfl
  | reset =>
    cases ht
    exact inv_of_cleared (Memory.from_wf (initByte s.params) hmem progBase) rfl rfl
  | load image =>
    cases ht
    exact hostLoad_keeps_inv image hinv (hload ⟨image, rfl⟩)
  | setKeys _ =>
    cases ht
    exact inv_of_sameSlot hinv (s.setKey_params _) (s.setKey_ckpt _) hmem
      (waitsAtItsInstr_congr hwait (s.setKey_mem _) (s.setKey_params _) (s.setKey_pc _) (s.setKey_wait _))
  | tick =>
    cases ht
    exact inv_of_sameSlot hinv rfl rfl hmem (waitsAtItsInstr_congr hwait rfl rfl rfl rfl)
  | save =>
    -- the slot now holds the live state
    cases ht
    obtain ⟨hlive, -⟩ := hinv
    refine ⟨hlive, fun c hc => ?_⟩
    cases hc
    exact hlive
  | restore =>
    cases ht
    exact hostRestore_keeps_inv hinv

end Sys2Proof.Machine

/-! ### Steps and runs (spec/40_cycle.md R70 to R74, spec/60_exceptions.md R147, spec/70_reset_and_hazards.md R171, R173) -/

namespace Sys2Proof.Machine

open Sys2Proof Sys2Proof.Safety

/-- Settles O6. -/
theorem stepRunsTheDecodedInstruction : Obligations.StepRunsTheDecodedInstruction := by
  rintro s i ⟨hf, hw⟩ hd
  exact step_exec hf hw hd

/-! #### A word stored at PC -/

/-- The two bytes of a word lie at different places in memory, at the wrap too. -/
theorem memIndex_add_one_ne (a : Word) : memIndex (a + 1) ≠ memIndex a := by
  rw [memIndex_add_one]
  unfold memIndex
  omega

theorem withFetchWord_memRead_other (s : State) (nbits w : Nat) {a : Word} (h : memIndex a ≠ memIndex s.pc)
    (h' : memIndex a ≠ memIndex (s.pc + 1)) : (s.withFetchWord nbits w).memRead a = s.memRead a := by
  simp only [State.withFetchWord, State.memRead_setWait, State.memRead_setFault]
  rw [memRead_memWrite_other _ _ h', memRead_memWrite_other _ _ h]

/-- The word fetched is the word stored. -/
theorem withFetchWord_fetchWord {s : State} (hs : MemoryCanonical s) (w : Word) :
    (s.withFetchWord 16 w.toNat).fetchWord = w := by
  have hwf := memWrite_wf hs s.pc (wordHi w)
  have hhi : (s.withFetchWord 16 w.toNat).memRead s.pc = wordHi w := by
    simp only [State.withFetchWord, State.memRead_setWait, State.memRead_setFault, tableWord_toNat]
    rw [memRead_memWrite_other _ _ (memIndex_add_one_ne s.pc).symm, memRead_memWrite_same hs _ rfl]
  have hlo : (s.withFetchWord 16 w.toNat).memRead (s.pc + 1) = wordLo w := by
    simp only [State.withFetchWord, State.memRead_setWait, State.memRead_setFault, tableWord_toNat]
    rw [memRead_memWrite_same hwf _ rfl]
  calc (s.withFetchWord 16 w.toNat).fetchWord = wordOfBytes (wordHi w) (wordLo w) := congrArg₂ wordOfBytes hhi hlo
    _ = w := wordOfBytes_hi_lo w

/-- Settles O7. -/
theorem storedWordIsTheNextExecuted : Obligations.StoredWordIsTheNextExecuted := by
  intro s w i hs hd
  have hfetch : (s.withFetchWord 16 w.toNat).fetchDecode = .op i := by
    rw [State.fetchDecode, withFetchWord_fetchWord hs, hd]
  exact ⟨step_exec rfl rfl hfetch, fun a => withFetchWord_memRead_other s 16 w.toNat⟩

/-! #### The key wait under RESUME -/

/-- Settles O10: the scan of the keypad finds no key, or the least. -/
theorem resumedKeyWaitStoresTheLeastKey : Obligations.ResumedKeyWaitStoresTheLeastKey := by
  intro s x hf hw hm
  rw [step_waiting hf hw]
  refine ⟨fun hnone => keyWaitStep_noKey x ((leastKey_eq_none_iff s.key).mpr hnone), fun k hk => ?_⟩
  have hleast : leastKey s.key = some k := (leastKey_eq_some_iff s.key k).mpr hk
  have hstored : (s.setV x (BitVec.ofNat 8 k.val)).v[x].toNat = k.val := by
    rw [setV_v_same, keyByte_toNat]
  exact ⟨_, keyWaitStep_key x hm hleast, hstored, rfl, rfl,
    frame_advance (frame_trans (frame_setV s _ (by simp)) (frame_setWait _ none (by simp)))⟩

/-! #### States a run does not leave -/

/-- A host operation other than Init and Reset neither clears nor changes a recorded fault (R147). -/
theorem apply_keeps_fault {op : HostOp} {s t : State} (hf : s.fault ≠ .none) (hop : op ≠ .init ∧ op ≠ .reset)
    (ht : op.apply s = .next t) : t.fault = s.fault := by
  obtain ⟨hinit, hreset⟩ := hop
  cases op with
  | init => exact absurd rfl hinit
  | reset => exact absurd rfl hreset
  | step =>
    cases (step_faulted hf).symm.trans ht
    rfl
  | load image =>
    cases ht
    obtain ⟨m, hm⟩ := hostLoad_eq_setMem image s
    rw [hm, State.setMem_fault]
  | restore =>
    cases ht
    cases hc : s.ckpt with
    | none => rw [hostRestore_of_ckpt_none hc]
    | some c => rw [hostRestore_of_ckpt_some hc, State.withSnapshot_fault]
  | setKeys _ | tick | save =>
    cases ht
    rfl

/-- Settles O21: a faulted Step is the identity, and no operation but Init and Reset touches FAULT then. -/
theorem faultsAreSticky : Obligations.FaultsAreSticky := by
  intro s hf
  refine ⟨run_of_step_self core (step_faulted hf), fun ops t hops ht => ?_, rfl, rfl⟩
  exact applyAll_keeps (P := fun u => u.fault = s.fault) (allowed := fun op => op ≠ .init ∧ op ≠ .reset)
    (fun _ u _ hop hu hv => (apply_keeps_fault (hu ▸ hf) hop hv).trans hu) hops rfl ht

theorem zextAddr_toNat (nnn : Addr) : (zextAddr nnn).toNat = nnn.toNat := by
  have := nnn.isLt
  simp only [zextAddr, BitVec.toNat_setWidth]
  omega

/-- Settles O50: the jump sets PC to what it holds. -/
theorem selfJumpChangesNothing : Obligations.SelfJumpChangesNothing := by
  rintro s nnn ⟨hf, hw⟩ hd hpc
  have htarget : zextAddr nnn = s.pc := BitVec.eq_of_toNat_eq ((zextAddr_toNat nnn).trans hpc.symm)
  have hstep : step s = .next s := by
    rw [step_exec hf hw hd]
    exact congrArg (fun a => (.next (s.setPc a) : Result)) htarget
  exact run_of_step_self core hstep

end Sys2Proof.Machine

/-! ### Control transfer and skips (spec/41_control.md sections 1 to 3) -/

namespace Sys2Proof.Machine

open Sys2Proof Sys2Proof.Safety

/-- Settles O22. -/
theorem sysAdvancesAndJpJumps : Obligations.SysAdvancesAndJpJumps := by
  intro nnn s
  exact ⟨⟨_, rfl, rfl, frame_setPc [] [] s _⟩, ⟨_, rfl, zextAddr_toNat nnn, frame_setPc [] [] s _⟩⟩

/-- Settles O24: CALL stores PC in the slot numbered SP, or finds SP = 16. -/
theorem callPushesItsOwnAddress : Obligations.CallPushesItsOwnAddress := by
  intro nnn s
  refine ⟨fun h => ?_, execCall_full nnn⟩
  have hother (k : Fin 16) (hk : k.val ≠ s.sp.val) : (s.stack.set s.sp.val s.pc)[k] = s.stack[k] :=
    Vector.getElem_set_ne h k.isLt hk.symm
  refine ⟨_, execCall_room nnn h, zextAddr_toNat nnn, rfl, Vector.getElem_set_self h, hother, ?_⟩
  exact frame_trans (frame_trans (frame_setSlot s _ _ (by simp)) (frame_setSp _ _ (by simp))) (frame_setPc _ _ _ _)

/-- Settles O25: RET reads the slot below SP and writes SP and PC only, or finds SP = 0. -/
theorem retReturnsPastTheCall : Obligations.RetReturnsPastTheCall := by
  intro s
  refine ⟨fun h => ⟨_, execRet_pop (Nat.pos_iff_ne_zero.mp h), rfl, rfl, rfl, ?_⟩, execRet_empty⟩
  exact frame_trans (frame_setSp s _ (by simp)) (frame_setPc _ _ _ _)

/-- Settles O27, by the `proceeds_` lemma of each of the four. -/
theorem registerSkipsCompleteAndChangeOnlyPc : Obligations.RegisterSkipsCompleteAndChangeOnlyPc := by
  have hskip {i : Instr} {s : State} {c : Bool} (hexec : exec i s = .next (s.skipIf c))
      (hp : Proceeds s i (s.skipIf c)) : ∃ t, exec i s = .next t ∧ (SkipHolds s i → t.pc = s.pc + 4) ∧
        (¬ SkipHolds s i → t.pc = s.pc + 2) ∧ Frame [] [] s t := by
    obtain ⟨hfour, htwo⟩ := hp
    exact ⟨_, hexec, hfour, htwo, frame_setPc [] [] s _⟩
  rintro i s (⟨x, nn, rfl | rfl⟩ | ⟨x, y, rfl | rfl⟩)
  · exact hskip rfl (proceeds_seImm x nn s)
  · exact hskip rfl (proceeds_sneImm x nn s)
  · exact hskip rfl (proceeds_seReg x y s)
  · exact hskip rfl (proceeds_sneReg x y s)

/-- Settles O28: a value below 16 names a line, any other value raises KEY_INDEX. -/
theorem keySkipsTestTheKeyNamedByVx : Obligations.KeySkipsTestTheKeyNamedByVx := by
  intro x s
  refine ⟨fun h => ⟨⟨_, keySkip_key true h, ?_, frame_setPc [] [] s _⟩,
    ⟨_, keySkip_key false h, ?_, frame_setPc [] [] s _⟩⟩, fun h => ⟨keySkip_noKey true h, keySkip_noKey false h⟩⟩ <;>
  · rw [State.skipIf_pc]
    cases s.key[s.v[x].toNat] <;> rfl

end Sys2Proof.Machine

/-! ### Loads, moves and RND (spec/42_alu.md sections 2 to 4, spec/44_index_memory_timers.md sections 1, 3 and 4) -/

namespace Sys2Proof.Machine

open Sys2Proof Sys2Proof.Safety

/-- An instruction that is the flag unit at an operation without a flag puts the result in Vx and goes on. -/
theorem completesUnflagged_of_execAlu {s : State} {i : Instr} {op : AluOp} {x : Reg} {b : Byte}
    (hexec : exec i s = execAlu op x b s) (hf : (alu op (s.getV x) b).flag = none) :
    ∃ t, exec i s = .next t ∧ t.v[x] = (alu op (s.getV x) b).r ∧ t.pc = s.pc + 2 ∧ Frame [x] [] s t := by
  refine ⟨_, hexec, ?_, congrArg (· + 2) (writeBack_pc x _ s), frame_writeBack_unflagged s hf⟩
  rw [State.advance_v, writeBack_unflagged s hf, setV_v_same]

/-- Settles O29: each of the six is the flag unit at one operation without a flag. -/
theorem unflaggedArithmeticWritesOnlyVx : Obligations.UnflaggedArithmeticWritesOnlyVx := by
  intro x y nn s
  have hadd : ∃ t, exec (.addImm x nn) s = .next t ∧ t.v[x].toNat = (s.v[x].toNat + nn.toNat) % 256 ∧
      t.pc = s.pc + 2 ∧ Frame [x] [] s t := by
    obtain ⟨t, ht, hv, hrest⟩ := completesUnflagged_of_execAlu (i := .addImm x nn) (s := s) (op := .addnf) rfl rfl
    exact ⟨t, ht, (congrArg BitVec.toNat hv).trans (alu_addnf_r _ _), hrest⟩
  exact ⟨completesUnflagged_of_execAlu (op := .mov) rfl rfl, hadd, completesUnflagged_of_execAlu (op := .mov) rfl rfl,
    completesUnflagged_of_execAlu (op := .or) rfl rfl, completesUnflagged_of_execAlu (op := .and) rfl rfl,
    completesUnflagged_of_execAlu (op := .xor) rfl rfl⟩

/-- Settles O32: the draw counter only selects which byte is drawn. -/
theorem rndMasksOneDrawnByte : Obligations.RndMasksOneDrawnByte := by
  intro x nn s
  exact ⟨_, rfl, setV_v_same s x _, rfl, rfl, exec_frame (i := .rnd x nn) rfl⟩

/-- ADD I, Vx is an addition modulo 2^16. -/
theorem add_zextByte_toNat (a : Word) (b : Byte) : (a + zextByte b).toNat = (a.toNat + b.toNat) % 65536 := by
  have := b.isLt
  simp only [zextByte, BitVec.toNat_add, BitVec.toNat_setWidth]
  omega

/-- Settles O37. -/
theorem indexAndTimerMoves : Obligations.IndexAndTimerMoves := by
  intro x nnn s
  exact ⟨⟨_, rfl, zextAddr_toNat nnn, rfl, exec_frame (i := .ldI nnn) rfl⟩,
    ⟨_, rfl, setV_v_same s x s.dt, rfl, exec_frame (i := .ldVxDt x) rfl⟩,
    ⟨_, rfl, rfl, rfl, exec_frame (i := .ldDtVx x) rfl⟩,
    ⟨_, rfl, rfl, rfl, exec_frame (i := .ldStVx x) rfl⟩,
    ⟨_, rfl, add_zextByte_toNat s.i (s.getV x), rfl, exec_frame (i := .addIVx x) rfl⟩⟩

end Sys2Proof.Machine

/-! ### Display (spec/43_display.md R117 to R127)

`rowsCover_iff_spriteCovers` ties the pixels the sprite loops visit to the set B of R127; the laws of Laws/Display.lean
then speak of that set. -/

namespace Sys2Proof.Machine

open Sys2Proof Sys2Proof.Safety

/-- Settles O33. -/
theorem clsDarkensEveryPixel : Obligations.ClsDarkensEveryPixel := by
  intro s
  exact ⟨_, rfl, Display.pixel_dark, rfl, exec_frame (i := .cls) rfl⟩

@[simp] theorem startColumn_val (b : Byte) : (startColumn b).val = b.toNat % 64 := rfl

@[simp] theorem startRow_val (b : Byte) : (startRow b).val = b.toNat % 32 := rfl

/-- The sprite bytes DRW Vx, Vy, n reads in `s`: those of the drawn rows (R121). -/
def spriteRows (s : State) (y : Reg) (n : Nibble) : List Byte := s.readBytes s.i (drawnRows (startRow s.v[y]) n)

/-- The state after DRW Vx, Vy when the sprite bytes are `rows` (R118 to R124). -/
def State.drawn (s : State) (x y : Reg) (rows : List Byte) : State :=
  let out := draw s.disp (startColumn s.v[x]) (startRow s.v[y]) rows
  ((s.setV regF (flagByte out.collision)).setDisp out.disp).advance

theorem exec_drw (x y : Reg) (n : Nibble) (s : State) :
    exec (.drw x y n) s = .next (s.drawn x y (spriteRows s y n)) := rfl

/-- Once the sprite bytes are read, DRW does not read memory. -/
theorem State.drawn_setMem (s : State) (x y : Reg) (rows : List Byte) (m : Memory) :
    (s.setMem m).drawn x y rows = (s.drawn x y rows).setMem m := rfl

/-- The pixels the sprite loops cover are those under an in-bounds 1 bit of the sprite. -/
theorem rowsCover_iff_spriteCovers (s : State) (x y : Reg) (n : Nibble) (px : Fin 64) (py : Fin 32) :
    RowsCover (startColumn s.v[x]) (startRow s.v[y]) 0 (spriteRows s y n) px py ↔ SpriteCovers s x y n px py := by
  have hpy := py.isLt
  unfold RowsCover RowCovers SpriteCovers spriteRows spriteBit
  simp only [readBytes_getElem, readBytes_length, startColumn_val, startRow_val, drawnRows, Nat.add_zero]
  constructor
  · rintro ⟨hrow, hlen, hcol, hcol8, hbit⟩
    exact ⟨py.val - s.v[y].toNat % 32, px.val - s.v[x].toNat % 64, by omega, by omega, by omega, by omega, hbit⟩
  · rintro ⟨r, c, hr, hc, hpr, hpc, hbit⟩
    have hr' : py.val - s.v[y].toNat % 32 = r := by omega
    have hc' : px.val - s.v[x].toNat % 64 = c := by omega
    rw [hr', hc']
    exact ⟨by omega, by omega, by omega, by omega, hbit⟩

/-- Settles O34: the unit inverts the covered pixels, and collides when one of them was lit. -/
theorem drawIsTheClosedForm : Obligations.DrawIsTheClosedForm := by
  intro x y n s
  have hpixel := draw_pixel s.disp (startColumn s.v[x]) (startRow s.v[y]) (spriteRows s y n)
  have hcollision := draw_collision s.disp (startColumn s.v[x]) (startRow s.v[y]) (spriteRows s y n)
  simp only [rowsCover_iff_spriteCovers] at hpixel hcollision
  refine ⟨_, exec_drw x y n s, rfl, exec_frame (exec_drw x y n s), hpixel, fun h => ?_, fun h => ?_⟩
  · exact (setV_v_same s regF _).trans ((flagByte_eq_one_iff _).mpr (hcollision.mpr h))
  · exact (setV_v_same s regF _).trans (congrArg flagByte (Bool.eq_false_iff.mpr fun hc => h (hcollision.mp hc)))

/-- A draw at coordinates other than VF leaves the pixels that the sprite covers as they were. -/
theorem spriteCovers_congr {s t : State} {x y : Reg} (hx : x ≠ regF) (hy : y ≠ regF)
    (h : Frame [regF] [.disp] s t) (n : Nibble) (px : Fin 64) (py : Fin 32) :
    SpriteCovers t x y n px py ↔ SpriteCovers s x y n px py := by
  obtain ⟨hregs, hparts⟩ := h
  have hvx : t.v[x] = s.v[x] := hregs x (by simpa using hx)
  have hvy : t.v[y] = s.v[y] := hregs y (by simpa using hy)
  have hi : t.i = s.i := hparts .i (by decide)
  have hmem : ∀ a, t.memRead a = s.memRead a := hparts .mem (by decide)
  simp only [SpriteCovers, hvx, hvy, hi, hmem]

/-- Settles O35: both draws are the closed form, over one set of covered pixels. -/
theorem drawingTwiceRestoresTheDisplay : Obligations.DrawingTwiceRestoresTheDisplay := by
  intro x y n s hx hy
  obtain ⟨t, ht, -, hframe, hfirst, -, -⟩ := drawIsTheClosedForm x y n s
  obtain ⟨u, hu, -, -, hsecond, hlit, hdark⟩ := drawIsTheClosedForm x y n t
  simp only [spriteCovers_congr hx hy hframe] at hsecond hlit hdark
  refine ⟨t, u, ht, hu, Display.ext fun px py => ?_, ?_⟩
  · obtain ⟨hin, hout⟩ := hfirst px py
    obtain ⟨hin', hout'⟩ := hsecond px py
    by_cases hc : SpriteCovers s x y n px py
    · exact (hin' hc).trans ((congrArg not (hin hc)).trans (Bool.not_not _))
    · exact (hout' hc).trans (hout hc)
  · -- a covered pixel is lit after the first draw when it was dark before it
    have hinverted : (∃ px py, SpriteCovers s x y n px py ∧ t.disp[py][px] = true) ↔
        ∃ px py, SpriteCovers s x y n px py ∧ s.disp[py][px] = false := by
      refine exists_congr fun px => exists_congr fun py => and_congr_right fun hc => ?_
      rw [(hfirst px py).1 hc, Bool.not_eq_true']
    rw [← hinverted]
    refine ⟨fun hone => ?_, hlit⟩
    by_contra hno
    rw [hdark hno] at hone
    exact absurd hone (by decide)

/-- Settles O36: the sprite bytes that are read are the same, and DRW reads memory for nothing else. -/
theorem drawReadsOnlyTheDrawnRows : Obligations.DrawReadsOnlyTheDrawnRows := by
  intro x y n s m h
  have hrows : spriteRows (s.setMem m) y n = spriteRows s y n := by
    refine List.map_congr_left fun r hr => ?_
    simp only [List.mem_range, drawnRows, startRow_val, State.setMem_v] at hr
    exact h r (by omega) (by omega)
  refine ⟨_, exec_drw x y n s, ?_⟩
  rw [exec_drw, hrows, State.drawn_setMem]

end Sys2Proof.Machine

/-! ### Stores at I (spec/44_index_memory_timers.md sections 5 and 6) -/

namespace Sys2Proof.Machine

open Sys2Proof Sys2Proof.Safety

/-- A block store that R139 does not forbid puts each byte at its address and changes nothing else. -/
theorem storeBlock_stores {bs : List Byte} {s : State} (hs : MemoryCanonical s) (hlen : bs.length ≤ 4096)
    (h : ¬ FontForbids s s.i bs.length) :
    ∃ t, storeBlock bs s = .next t ∧ t.pc = s.pc + 2 ∧ Frame [] [.mem] s t ∧
      (∀ (k : Nat) (hk : k < bs.length), t.memRead (byteAddr s.i k) = bs[k]) ∧
      ∀ a : Word, (∀ k < bs.length, memIndex a ≠ memIndex (byteAddr s.i k)) → t.memRead a = s.memRead a := by
  have hpc : (s.writeBytes s.i bs).pc = s.pc := by
    obtain ⟨m, hm⟩ := writeBytes_eq_setMem s s.i bs
    rw [hm, State.setMem_pc]
  exact ⟨_, storeBlock_allowed h, congrArg (· + 2) hpc, frame_advance (frame_writeBytes s s.i bs (by simp)),
    memRead_writeBytes_same hs s.i bs hlen, memRead_writeBytes_other s s.i bs⟩

/-- A decimal digit is at most 255, so the byte holds it. -/
theorem digitByte_toNat {d : Nat} (h : d < 256) : (BitVec.ofNat 8 d).toNat = d := by
  rw [BitVec.toNat_ofNat]
  exact Nat.mod_eq_of_lt h

/-- LD B stores the three digits of Vx. -/
theorem ldBVx_stores {x : Reg} {s : State} (hs : MemoryCanonical s) (h : ¬ FontForbids s s.i 3) :
    ∃ t, exec (.ldBVx x) s = .next t ∧ t.pc = s.pc + 2 ∧ Frame [] [.mem] s t ∧
      (t.memRead (byteAddr s.i 0)).toNat = s.v[x].toNat / 100 ∧
      (t.memRead (byteAddr s.i 1)).toNat = s.v[x].toNat / 10 % 10 ∧
      (t.memRead (byteAddr s.i 2)).toNat = s.v[x].toNat % 10 ∧
      ∀ a : Word, (∀ k < 3, memIndex a ≠ memIndex (byteAddr s.i k)) → t.memRead a = s.memRead a := by
  have hv := s.v[x].isLt
  obtain ⟨t, ht, hpc, hframe, hsame, hother⟩ := storeBlock_stores (bs := decimalDigits s.v[x]) hs (by simp) h
  have hdigit {k d : Nat} (hk : k < 3) (hd : d < 256) (he : (decimalDigits s.v[x])[k] = BitVec.ofNat 8 d) :
      (t.memRead (byteAddr s.i k)).toNat = d := by
    rw [hsame k hk, he, digitByte_toNat hd]
  exact ⟨t, ht, hpc, hframe, hdigit (by omega) (by omega) rfl, hdigit (by omega) (by omega) rfl,
    hdigit (by omega) (by omega) rfl, hother⟩

/-- LD [I] stores the registers up to Vx. -/
theorem ldMemVx_stores {x : Reg} {s : State} (hs : MemoryCanonical s) (h : ¬ FontForbids s s.i (x.val + 1)) :
    ∃ t, exec (.ldMemVx x) s = .next t ∧ t.pc = s.pc + 2 ∧ Frame [] [.mem] s t ∧
      (∀ k : Reg, k ≤ x → t.memRead (byteAddr s.i k.val) = s.v[k]) ∧
      ∀ a : Word, (∀ k ≤ x.val, memIndex a ≠ memIndex (byteAddr s.i k)) → t.memRead a = s.memRead a := by
  have hlen := regsUpTo_length s x
  obtain ⟨t, ht, hpc, hframe, hsame, hother⟩ :=
    storeBlock_stores (bs := s.regsUpTo x) hs (by omega) (hlen.symm ▸ h)
  refine ⟨t, ht, hpc, hframe, fun k hk => ?_, fun a ha => hother a fun k hk => ha k (by omega)⟩
  have hk' : k.val < (s.regsUpTo x).length := by
    have : k.val ≤ x.val := hk
    omega
  exact (hsame k.val hk').trans (regsUpTo_getElem s x k.val hk')

/-- Settles O40: each of the two is a block store, performed or forbidden as R139 says. -/
theorem storesWriteTheirBytesAndNoOthers : Obligations.StoresWriteTheirBytesAndNoOthers := by
  intro x s hs
  exact ⟨ldBVx_stores hs, fun h => exec_of_raises (i := .ldBVx x) ⟨rfl, h⟩, ldMemVx_stores hs,
    fun h => exec_of_raises (i := .ldMemVx x) ⟨rfl, h⟩⟩

end Sys2Proof.Machine

/-! ### Host operations (spec/60_exceptions.md sections 3 to 5, spec/70_reset_and_hazards.md section 1) -/

namespace Sys2Proof.Machine

open Sys2Proof Sys2Proof.Safety

/-! #### Tick, SetKeys and Save -/

theorem decayTimer_toNat (b : Byte) : (decayTimer b).toNat = b.toNat - 1 := by
  have := b.isLt
  have hone : (1 : Byte).toNat = 1 := rfl
  unfold decayTimer
  split
  · rw [BitVec.toNat_sub, hone]
    omega
  · omega

/-- Settles O42. -/
theorem tickDecaysBothTimers : Obligations.TickDecaysBothTimers := by
  intro s
  exact ⟨decayTimer_toNat s.dt, decayTimer_toNat s.st, rfl,
    frame_trans (frame_setDt s _ (by simp)) (frame_setSt _ _ (by simp))⟩

/-- Settles O43. -/
theorem setKeysReplacesEveryLine : Obligations.SetKeysReplacesEveryLine := by
  intro k s
  have hline (j : Reg) : (Vector.ofFn fun j : Fin 16 => k.getLsbD j.val)[j] = k.getLsbD j.val :=
    Vector.getElem_ofFn j.isLt
  exact ⟨hline, rfl, frame_setKey s _ (by simp)⟩

/-- Settles O51: the snapshot is made of the live fields. -/
theorem saveWritesOnlyTheCheckpointSlot : Obligations.SaveWritesOnlyTheCheckpointSlot := by
  intro s
  exact ⟨rfl, frame_setCkpt s _ (by simp), s.snapshot, hostSave_ckpt s, s.snapshot_mem, s.snapshot_v, s.snapshot_i,
    s.snapshot_pc, s.snapshot_stack, s.snapshot_sp, s.snapshot_dt, s.snapshot_st, s.snapshot_key, s.snapshot_disp,
    s.snapshot_ghost, s.snapshot_paused, s.snapshot_wait⟩

/-! #### Load -/

/-- The image fits between the program base and the end of memory, so no address of it wraps (R164). -/
theorem memIndex_progByte {k : Nat} (h : k < progCapacity) :
    memIndex (byteAddr (BitVec.ofNat 16 progBase) k) = progBase + k := by
  rw [memIndex_byteAddr, BitVec.toNat_ofNat]
  simp only [progCapacity, progBase] at h ⊢
  omega

/-- Settles O44: Load is one block write of the image's first 0xE00 bytes. -/
theorem loadCopiesAndTruncates : Obligations.LoadCopiesAndTruncates := by
  intro image s hs
  have hlen : (image.take progCapacity).length = min progCapacity image.length := List.length_take
  have hcap : progCapacity = 0xE00 := rfl
  refine ⟨fun k hk hcapk => ?_, fun a ha => ?_, ?_, frame_writeBytes s _ _ (by simp)⟩
  · have hbyte := memRead_writeBytes_same hs (BitVec.ofNat 16 progBase) (image.take progCapacity) (by omega) k (by omega)
    rw [List.getElem_take] at hbyte
    rwa [BitVec.ofNat_add]
  · refine memRead_writeBytes_other s _ _ a fun j hj => ?_
    rw [memIndex_progByte (by omega)]
    exact ha j (by omega) (by omega)
  · obtain ⟨m, hm⟩ := hostLoad_eq_setMem image s
    rw [hm, State.setMem_pc]

/-! #### Init and Reset -/

theorem initByte_above (p : Params) {a : Nat} (h : 80 ≤ a) : initByte p a = 0 := dif_neg (Nat.not_lt.mpr h)

/-- Init and Reset leave the state of Init, but for memory. -/
theorem eq_hostInit_setMem {s t : State} (h : t = hostInit s ∨ t = hostReset s) : ∃ m, t = (hostInit s).setMem m := by
  rcases h with rfl | rfl
  · exact ⟨[], rfl⟩
  · exact ⟨_, rfl⟩

/-- Below the program base both leave what memory holds when nothing has been written to it. -/
theorem memRead_below_progBase {s t : State} (h : t = hostInit s ∨ t = hostReset s) {a : Word}
    (ha : memIndex a < progBase) : t.memRead a = initByte s.params (memIndex a) := by
  rcases h with rfl | rfl
  · exact memRead_hostInit s a
  · exact memRead_hostReset_below s ha

/-- Settles O46: memory is split at the font's end and at the program base, and every other field is that of Init. -/
theorem initAndResetGiveTheListedValues : Obligations.InitAndResetGiveTheListedValues := by
  intro s
  have hbase : progBase = 0x200 := rfl
  refine ⟨fun a ha => initByte_above s.params (by omega), fun a => memRead_hostReset_program s, fun t ht => ?_⟩
  have hfont (a : Word) (h : memIndex a < 80) : t.memRead a = s.params.font[memIndex a] :=
    (memRead_below_progBase ht (by omega)).trans (initByte_font s.params ⟨memIndex a, h⟩)
  have hzero (a : Word) (h : 80 ≤ memIndex a) (h' : memIndex a < 0x200) : t.memRead a = 0 :=
    (memRead_below_progBase ht h').trans (initByte_above s.params h)
  refine ⟨hfont, hzero, ?_⟩
  obtain ⟨m, rfl⟩ := eq_hostInit_setMem ht
  have hghost (px : Fin 64) (py : Fin 32) : ((hostInit s).setMem m).ghost[py][px] = 0 := by
    simp [hostInit, State.init]
  exact ⟨fun z => Vector.getElem_replicate z.isLt, rfl, rfl, fun k => Vector.getElem_replicate k.isLt, rfl, rfl, rfl,
    fun j => Vector.getElem_replicate j.isLt, Display.pixel_dark, hghost, rfl, rfl, rfl, rfl⟩

/-! #### Runs since a Save -/

/-- Only Save, Init and Reset write the checkpoint slot (R29). -/
theorem apply_keeps_ckpt {op : HostOp} {s t : State} (hop : op ≠ .save ∧ op ≠ .init ∧ op ≠ .reset)
    (ht : op.apply s = .next t) : t.ckpt = s.ckpt := by
  obtain ⟨hsave, hinit, hreset⟩ := hop
  cases op with
  | save => exact absurd rfl hsave
  | init => exact absurd rfl hinit
  | reset => exact absurd rfl hreset
  | step => exact congrArg HostParts.ckpt (step_hostParts ht)
  | load image =>
    cases ht
    obtain ⟨m, hm⟩ := hostLoad_eq_setMem image s
    rw [hm, State.setMem_ckpt]
  | restore =>
    cases ht
    cases hc : s.ckpt with
    | none => rw [hostRestore_of_ckpt_none hc, hc]
    | some c => rw [hostRestore_of_ckpt_some hc, State.withSnapshot_ckpt, hc]
  | setKeys _ | tick =>
    cases ht
    rfl

/-- Settles O49: the slot keeps the snapshot along the run, and Restore takes the live state from it. -/
theorem restoreRewindsAnyRun : Obligations.RestoreRewindsAnyRun := by
  intro ops s t hops ht
  have hslot : t.ckpt = some s.snapshot :=
    applyAll_keeps (P := fun u => u.ckpt = some s.snapshot)
      (allowed := fun op => op ≠ .save ∧ op ≠ .init ∧ op ≠ .reset)
      (fun _ _ _ hop hu hv => (apply_keeps_ckpt hop hv).trans hu) hops (hostSave_ckpt s) ht
  rw [hostRestore_of_ckpt_some hslot]
  exact ⟨t.withSnapshot_snapshot s.snapshot, hslot⟩

end Sys2Proof.Machine
